-- ==== Sys2Proof/Word.lean ====
section
/-! DEFINITION. The word types of the current_sensor CORE (10_state.md R59, R60; 30_encoding.md R100). -/

namespace Sys2Proof

/-- A byte of the link (R100). -/
abbrev Byte := BitVec 8
/-- A 16-bit value: a scaled result, a tap entry, a smoothing slot (R36, R37). -/
abbrev Half := BitVec 16
/-- A register of the host window, or the bus data (R59). -/
abbrev Word := BitVec 32
/-- `bus_addr`: a byte offset in the 64-byte window (R59). -/
abbrev Offset := BitVec 6
/-- The 48-bit transaction word of one bus access (R101). -/
abbrev BusWord := BitVec 48
/-- The 64-bit wire frame (R110). -/
abbrev FrameWord := BitVec 64
/-- One raw ADC reading, at the widest ADC_BITS the spec allows (R7: 10 to 12 bits). -/
abbrev Reading := BitVec 12

end Sys2Proof
end

