-- ==== Sys2Proof/Syntax.lean ====
section
/-! DEFINITION. The instructions: one constructor for each row of spec/opcode_table.json. 25 rows are host bus accesses
(30_encoding.md R101 to R103), 2 are frames as the SU decodes them (R110, R116). Operand bits that the spec says are ignored but that
a writer chooses (DATA of a write, DATA[31:8] of a command) are kept as operands; bits 44:38 and the DATA of a read are not
(log 13). -/

namespace Sys2Proof

inductive Instr where
  /-- BUS_ERR_SIZE.B: SIZE = 0 (R102 step 1) -/
  | busErrSizeB (w : Bool) (addr : Offset) (data : Word)
  /-- BUS_ERR_SIZE.H: SIZE = 1 -/
  | busErrSizeH (w : Bool) (addr : Offset) (data : Word)
  /-- BUS_ERR_SIZE.R: SIZE = 3 -/
  | busErrSizeR (w : Bool) (addr : Offset) (data : Word)
  /-- BUS_ERR_ALIGN.1: SIZE = 2, ADDR[0] = 1 (R102 step 2) -/
  | busErrAlign1 (w : Bool) (addr : Offset) (data : Word)
  /-- BUS_ERR_ALIGN.2: SIZE = 2, ADDR[1:0] = 0b10 (log 14) -/
  | busErrAlign2 (w : Bool) (addr : Offset) (data : Word)
  /-- RD_CMD: `rd CMD` (R310) -/
  | rdCmd
  /-- RD_STATUS: `rd STATUS` -/
  | rdStatus
  /-- RD_INDEX: `rd INDEX` -/
  | rdIndex
  /-- RD_PEAK: `rd PEAK` -/
  | rdPeak
  /-- RD_RMS: `rd RMS` -/
  | rdRms
  /-- RD_FREQ: `rd FREQ` -/
  | rdFreq
  /-- RD_UNMAPPED.LO: `rd @0x18` or `rd @0x1C`; `sel` is ADDR[2] (R317) -/
  | rdUnmappedLo (sel : BitVec 1)
  /-- RD_UNMAPPED.HI: `rd @0x20` to `rd @0x3C`; `sel` is ADDR[4:2] -/
  | rdUnmappedHi (sel : BitVec 3)
  /-- NOP: `wr CMD`, code 0x00; `hi` is DATA[31:8], ignored (R104, R313) -/
  | nop (hi : BitVec 24)
  /-- START: `wr CMD`, code 0x01 (R141) -/
  | start (hi : BitVec 24)
  /-- PROCESS: `wr CMD`, code 0x02 (R200) -/
  | process (hi : BitVec 24)
  /-- SEND: `wr CMD`, code 0x03 (R250) -/
  | send (hi : BitVec 24)
  /-- CMD_RESERVED: `wr CMD`, code 0x04 to 0xFF (R314) -/
  | cmdReserved (hi : BitVec 24) (code : Byte)
  /-- WR_STATUS: `wr STATUS`, write-1-to-clear (R315) -/
  | wrStatus (data : Word)
  /-- WR_RO.INDEX: ignored (R316) -/
  | wrRoIndex (data : Word)
  /-- WR_RO.PEAK -/
  | wrRoPeak (data : Word)
  /-- WR_RO.RMS -/
  | wrRoRms (data : Word)
  /-- WR_RO.FREQ -/
  | wrRoFreq (data : Word)
  /-- WR_UNMAPPED.LO: `wr @0x18` or `wr @0x1C`; `sel` is ADDR[2] (R317) -/
  | wrUnmappedLo (sel : BitVec 1) (data : Word)
  /-- WR_UNMAPPED.HI: `wr @0x20` to `wr @0x3C`; `sel` is ADDR[4:2] -/
  | wrUnmappedHi (sel : BitVec 3) (data : Word)
  /-- FRAME_MEAS: a complete frame whose first byte is the sentinel 0x02 (R289) -/
  | frameMeas (rsvd : Byte) (peak rms freq : Half)
  /-- FRAME_BAD: a complete frame with any other first byte (R294) -/
  | frameBad (cmd rsvd : Byte) (peak rms freq : Half)
  deriving DecidableEq, Repr

/-- What carries an instruction: a bus transaction word to the MU, or a wire frame to the SU (R100). -/
inductive Packet where
  | bus (t : BusWord)
  | frame (w : FrameWord)
  deriving DecidableEq, Repr

end Sys2Proof
end

