-- ==== Sys2Proof/WellFormed.lean ====
section
/-! DEFINITION. Well-formed instructions: the operands that the row of the opcode table stands for. -/

namespace Sys2Proof

/-- BUS_ERR_ALIGN.1 is an access whose ADDR[0] is 1. -/
def align1Ok (addr : Offset) : Bool := addr.getLsbD 0

/-- BUS_ERR_ALIGN.2 is an access whose ADDR[1:0] is 0b10 (log 14). -/
def align2Ok (addr : Offset) : Bool := !addr.getLsbD 0 && addr.getLsbD 1

/-- The reserved command codes are 0x04 to 0xFF (R103). -/
def reservedCode (code : Byte) : Bool := decide (4 ≤ code.toNat)

/-- A bad frame is one whose first byte is not the sentinel (R115). -/
def badSentinel (cmd : Byte) : Bool := decide (cmd ≠ 0x02#8)

/-- The instruction's operands are those of its row. -/
def Instr.wf (i : Instr) : Bool :=
  match i with
  | .busErrSizeB _ _ _ => true
  | .busErrSizeH _ _ _ => true
  | .busErrSizeR _ _ _ => true
  | .busErrAlign1 _ addr _ => align1Ok addr
  | .busErrAlign2 _ addr _ => align2Ok addr
  | .rdCmd => true
  | .rdStatus => true
  | .rdIndex => true
  | .rdPeak => true
  | .rdRms => true
  | .rdFreq => true
  | .rdUnmappedLo _ => true
  | .rdUnmappedHi _ => true
  | .nop _ => true
  | .start _ => true
  | .process _ => true
  | .send _ => true
  | .cmdReserved _ code => reservedCode code
  | .wrStatus _ => true
  | .wrRoIndex _ => true
  | .wrRoPeak _ => true
  | .wrRoRms _ => true
  | .wrRoFreq _ => true
  | .wrUnmappedLo _ _ => true
  | .wrUnmappedHi _ _ => true
  | .frameMeas _ _ _ _ => true
  | .frameBad cmd _ _ _ _ => badSentinel cmd

end Sys2Proof
end

