-- ==== Sys2Proof/Decode.lean ====
section
/-! DEFINITION. Decoding of a bus transaction word (R101, R102), of a command (R103) and of a wire frame (R110, R114), total on every
word; the encoder; the host script's lines (R106, R107) as transaction words; the opcode table's rows. -/

namespace Sys2Proof

/-! ## Fields -/

/-- `W`, bit 47 of the transaction word (R101). -/
def busW (t : BusWord) : Bool := t.getLsbD 47
/-- `SIZE`, bits 46:45. -/
def busSize (t : BusWord) : BitVec 2 := t.extractLsb' 45 2
/-- `ADDR`, bits 37:32. -/
def busAddr (t : BusWord) : Offset := t.extractLsb' 32 6
/-- `DATA`, bits 31:0. -/
def busData (t : BusWord) : Word := t.extractLsb' 0 32
/-- The command code, DATA[7:0] (R103). -/
def cmdCode (d : Word) : Byte := d.extractLsb' 0 8
/-- DATA[31:8] of a command write, ignored (R103). -/
def cmdHi (d : Word) : BitVec 24 := d.extractLsb' 8 24

/-! ## Decoding -/

/-- A write to CMD (R103, R312). -/
def decodeCmd (d : Word) : Instr :=
  if cmdCode d = 0x00#8 then .nop (cmdHi d)
  else if cmdCode d = 0x01#8 then .start (cmdHi d)
  else if cmdCode d = 0x02#8 then .process (cmdHi d)
  else if cmdCode d = 0x03#8 then .send (cmdHi d)
  else .cmdReserved (cmdHi d) (cmdCode d)

/-- A read at a word-aligned offset (R102 step 3, R41). -/
def decodeRead (a : Offset) : Instr :=
  if a = 0x00#6 then .rdCmd
  else if a = 0x04#6 then .rdStatus
  else if a = 0x08#6 then .rdIndex
  else if a = 0x0C#6 then .rdPeak
  else if a = 0x10#6 then .rdRms
  else if a = 0x14#6 then .rdFreq
  else if a.getLsbD 5 = false then .rdUnmappedLo (a.extractLsb' 2 1)
  else .rdUnmappedHi (a.extractLsb' 2 3)

/-- A write at a word-aligned offset (R102 steps 4 to 7). -/
def decodeWrite (a : Offset) (d : Word) : Instr :=
  if a = 0x00#6 then decodeCmd d
  else if a = 0x04#6 then .wrStatus d
  else if a = 0x08#6 then .wrRoIndex d
  else if a = 0x0C#6 then .wrRoPeak d
  else if a = 0x10#6 then .wrRoRms d
  else if a = 0x14#6 then .wrRoFreq d
  else if a.getLsbD 5 = false then .wrUnmappedLo (a.extractLsb' 2 1) d
  else .wrUnmappedHi (a.extractLsb' 2 3) d

/-- A transaction word, in the order of R102; bits 44:38 are not examined. -/
def decodeBus (t : BusWord) : Instr :=
  if busSize t = 0#2 then .busErrSizeB (busW t) (busAddr t) (busData t)
  else if busSize t = 1#2 then .busErrSizeH (busW t) (busAddr t) (busData t)
  else if busSize t = 3#2 then .busErrSizeR (busW t) (busAddr t) (busData t)
  else if (busAddr t).getLsbD 0 = true then .busErrAlign1 (busW t) (busAddr t) (busData t)
  else if (busAddr t).getLsbD 1 = true then .busErrAlign2 (busW t) (busAddr t) (busData t)
  else if busW t = false then decodeRead (busAddr t)
  else decodeWrite (busAddr t) (busData t)

/-- A complete wire frame (R110, R116). -/
def decodeFrame (w : FrameWord) : Instr :=
  if w.extractLsb' 56 8 = 0x02#8 then
    .frameMeas (w.extractLsb' 48 8) (w.extractLsb' 32 16) (w.extractLsb' 16 16) (w.extractLsb' 0 16)
  else
    .frameBad (w.extractLsb' 56 8) (w.extractLsb' 48 8) (w.extractLsb' 32 16) (w.extractLsb' 16 16)
      (w.extractLsb' 0 16)

def decode (p : Packet) : Instr :=
  match p with
  | .bus t => decodeBus t
  | .frame w => decodeFrame w

/-- Why a pattern of bits is no packet of this hardware. -/
inductive Reject where
  /-- more bits than the 48 of a transaction word or the 64 of a frame (R100): raised by `packetOf`; safe -/
  | tooWide
  deriving DecidableEq, Repr

/-- The packet that a row of the opcode table of `nbits` bits stands for: 48 bits are a transaction word (format bus48), anything
else is laid on the link as a frame (format frame64). DESIGN CHOICE (log 18). -/
def packetOf (nbits w : Nat) : Except Reject Packet :=
  if nbits = 48 then
    if w < 2 ^ 48 then .ok (.bus (BitVec.ofNat 48 w)) else .error .tooWide
  else if w < 2 ^ 64 then .ok (.frame (BitVec.ofNat 64 w)) else .error .tooWide

/-- The instruction a table word of `nbits` bits decodes to. -/
def decodeTableWord (nbits w : Nat) : Option Instr :=
  match packetOf nbits w with
  | .ok p => some (decode p)
  | .error _ => none

/-! ## Encoding -/

/-- The transaction word of R101 from its fields; bits 44:38 are zero. -/
def busWord (w : Bool) (size : BitVec 2) (addr : Offset) (data : Word) : BusWord :=
  BitVec.ofBool w ++ size ++ 0#7 ++ addr ++ data

/-- A read transaction: W = 0, SIZE = 2, DATA = 0 (R101). -/
def rdWord (addr : Offset) : BusWord := busWord false 2#2 addr 0#32

/-- A write transaction: W = 1, SIZE = 2 (R101). -/
def wrWord (addr : Offset) (data : Word) : BusWord := busWord true 2#2 addr data

/-- The data of a CMD write (R103). -/
def cmdData (hi : BitVec 24) (code : Byte) : Word := hi ++ code

/-- The unmapped offset 0x18 or 0x1C. -/
def unmappedLo (sel : BitVec 1) : Offset := 0b011#3 ++ sel ++ 0#2

/-- The unmapped offset 0x20 to 0x3C. -/
def unmappedHi (sel : BitVec 3) : Offset := 0b1#1 ++ sel ++ 0#2

/-- A wire frame from its fields: command, reserved byte, three big-endian values (R110). -/
def frameWord (cmd rsvd : Byte) (peak rms freq : Half) : FrameWord :=
  cmd ++ rsvd ++ peak ++ rms ++ freq

def encode (i : Instr) : Packet :=
  match i with
  | .busErrSizeB w addr data => .bus (busWord w 0#2 addr data)
  | .busErrSizeH w addr data => .bus (busWord w 1#2 addr data)
  | .busErrSizeR w addr data => .bus (busWord w 3#2 addr data)
  | .busErrAlign1 w addr data => .bus (busWord w 2#2 addr data)
  | .busErrAlign2 w addr data => .bus (busWord w 2#2 addr data)
  | .rdCmd => .bus (rdWord 0x00#6)
  | .rdStatus => .bus (rdWord 0x04#6)
  | .rdIndex => .bus (rdWord 0x08#6)
  | .rdPeak => .bus (rdWord 0x0C#6)
  | .rdRms => .bus (rdWord 0x10#6)
  | .rdFreq => .bus (rdWord 0x14#6)
  | .rdUnmappedLo sel => .bus (rdWord (unmappedLo sel))
  | .rdUnmappedHi sel => .bus (rdWord (unmappedHi sel))
  | .nop hi => .bus (wrWord 0x00#6 (cmdData hi 0x00#8))
  | .start hi => .bus (wrWord 0x00#6 (cmdData hi 0x01#8))
  | .process hi => .bus (wrWord 0x00#6 (cmdData hi 0x02#8))
  | .send hi => .bus (wrWord 0x00#6 (cmdData hi 0x03#8))
  | .cmdReserved hi code => .bus (wrWord 0x00#6 (cmdData hi code))
  | .wrStatus data => .bus (wrWord 0x04#6 data)
  | .wrRoIndex data => .bus (wrWord 0x08#6 data)
  | .wrRoPeak data => .bus (wrWord 0x0C#6 data)
  | .wrRoRms data => .bus (wrWord 0x10#6 data)
  | .wrRoFreq data => .bus (wrWord 0x14#6 data)
  | .wrUnmappedLo sel data => .bus (wrWord (unmappedLo sel) data)
  | .wrUnmappedHi sel data => .bus (wrWord (unmappedHi sel) data)
  | .frameMeas rsvd peak rms freq => .frame (frameWord 0x02#8 rsvd peak rms freq)
  | .frameBad cmd rsvd peak rms freq => .frame (frameWord cmd rsvd peak rms freq)

/-! ## Host script lines (R106, R107) -/

/-- The register names of the host script, with their offsets (R41, R106). -/
inductive HostReg where
  | CMD | STATUS | INDEX | PEAK | RMS | FREQ
  deriving DecidableEq, Repr

def HostReg.offset (r : HostReg) : Offset :=
  match r with
  | .CMD => 0x00#6
  | .STATUS => 0x04#6
  | .INDEX => 0x08#6
  | .PEAK => 0x0C#6
  | .RMS => 0x10#6
  | .FREQ => 0x14#6

/-- `rd REG` -/
def scriptRd (r : HostReg) : BusWord := rdWord r.offset
/-- `wr REG, imm` -/
def scriptWr (r : HostReg) (imm : Word) : BusWord := wrWord r.offset imm
/-- `rd @off` -/
def scriptRdAt (off : Offset) : BusWord := rdWord off
/-- `wr @off, imm` -/
def scriptWrAt (off : Offset) (imm : Word) : BusWord := wrWord off imm
/-- `rd.b REG` -/
def scriptRdB (r : HostReg) : BusWord := busWord false 0#2 r.offset 0#32
/-- `rd.h REG` -/
def scriptRdH (r : HostReg) : BusWord := busWord false 1#2 r.offset 0#32
/-- `wr.b REG, imm` -/
def scriptWrB (r : HostReg) (imm : Word) : BusWord := busWord true 0#2 r.offset imm
/-- `wr.h REG, imm` -/
def scriptWrH (r : HostReg) (imm : Word) : BusWord := busWord true 1#2 r.offset imm
/-- `nop` -/
def scriptNop : BusWord := scriptWr .CMD 0x00#32
/-- `start` -/
def scriptStart : BusWord := scriptWr .CMD 0x01#32
/-- `process` -/
def scriptProcess : BusWord := scriptWr .CMD 0x02#32
/-- `send` -/
def scriptSend : BusWord := scriptWr .CMD 0x03#32
/-- `clr m` -/
def scriptClr (m : Word) : BusWord := scriptWr .STATUS m

/-! ## The opcode table's own form (R116) -/

/-- One row of the bus part of spec/opcode_table.json: a transaction word T matches iff T AND mask = pattern; the lowest priority
value wins. -/
structure BusRow where
  mnemonic : String
  pattern : BusWord
  mask : BusWord
  priority : Nat
  deriving DecidableEq, Repr

def busErrRows : List BusRow :=
  [ ⟨"BUS_ERR_SIZE.B", 0x000000000000#48, 0x600000000000#48, 0⟩,
    ⟨"BUS_ERR_SIZE.H", 0x200000000000#48, 0x600000000000#48, 0⟩,
    ⟨"BUS_ERR_SIZE.R", 0x600000000000#48, 0x600000000000#48, 0⟩,
    ⟨"BUS_ERR_ALIGN.1", 0x400100000000#48, 0x600100000000#48, 0⟩,
    ⟨"BUS_ERR_ALIGN.2", 0x400200000000#48, 0x600200000000#48, 0⟩ ]

def busReadRows : List BusRow :=
  [ ⟨"RD_CMD", 0x400000000000#48, 0xE03F00000000#48, 1⟩,
    ⟨"RD_STATUS", 0x400400000000#48, 0xE03F00000000#48, 1⟩,
    ⟨"RD_INDEX", 0x400800000000#48, 0xE03F00000000#48, 1⟩,
    ⟨"RD_PEAK", 0x400C00000000#48, 0xE03F00000000#48, 1⟩,
    ⟨"RD_RMS", 0x401000000000#48, 0xE03F00000000#48, 1⟩,
    ⟨"RD_FREQ", 0x401400000000#48, 0xE03F00000000#48, 1⟩,
    ⟨"RD_UNMAPPED.LO", 0x401800000000#48, 0xE03B00000000#48, 1⟩,
    ⟨"RD_UNMAPPED.HI", 0x402000000000#48, 0xE02300000000#48, 1⟩ ]

def busCmdRows : List BusRow :=
  [ ⟨"NOP", 0xC00000000000#48, 0xE03F000000FF#48, 1⟩,
    ⟨"START", 0xC00000000001#48, 0xE03F000000FF#48, 1⟩,
    ⟨"PROCESS", 0xC00000000002#48, 0xE03F000000FF#48, 1⟩,
    ⟨"SEND", 0xC00000000003#48, 0xE03F000000FF#48, 1⟩,
    ⟨"CMD_RESERVED", 0xC00000000000#48, 0xE03F00000000#48, 2⟩ ]

def busWriteRows : List BusRow :=
  [ ⟨"WR_STATUS", 0xC00400000000#48, 0xE03F00000000#48, 1⟩,
    ⟨"WR_RO.INDEX", 0xC00800000000#48, 0xE03F00000000#48, 1⟩,
    ⟨"WR_RO.PEAK", 0xC00C00000000#48, 0xE03F00000000#48, 1⟩,
    ⟨"WR_RO.RMS", 0xC01000000000#48, 0xE03F00000000#48, 1⟩,
    ⟨"WR_RO.FREQ", 0xC01400000000#48, 0xE03F00000000#48, 1⟩,
    ⟨"WR_UNMAPPED.LO", 0xC01800000000#48, 0xE03B00000000#48, 1⟩,
    ⟨"WR_UNMAPPED.HI", 0xC02000000000#48, 0xE02300000000#48, 1⟩ ]

/-- The 25 bus rows in the table's order. -/
def busRows : List BusRow := busErrRows ++ busReadRows ++ busCmdRows ++ busWriteRows

def BusRow.Matches (r : BusRow) (t : BusWord) : Prop := t &&& r.mask = r.pattern

/-- The row's mnemonic, letter for letter. -/
def Instr.mnemonic (i : Instr) : String :=
  match i with
  | .busErrSizeB _ _ _ => "BUS_ERR_SIZE.B"
  | .busErrSizeH _ _ _ => "BUS_ERR_SIZE.H"
  | .busErrSizeR _ _ _ => "BUS_ERR_SIZE.R"
  | .busErrAlign1 _ _ _ => "BUS_ERR_ALIGN.1"
  | .busErrAlign2 _ _ _ => "BUS_ERR_ALIGN.2"
  | .rdCmd => "RD_CMD"
  | .rdStatus => "RD_STATUS"
  | .rdIndex => "RD_INDEX"
  | .rdPeak => "RD_PEAK"
  | .rdRms => "RD_RMS"
  | .rdFreq => "RD_FREQ"
  | .rdUnmappedLo _ => "RD_UNMAPPED.LO"
  | .rdUnmappedHi _ => "RD_UNMAPPED.HI"
  | .nop _ => "NOP"
  | .start _ => "START"
  | .process _ => "PROCESS"
  | .send _ => "SEND"
  | .cmdReserved _ _ => "CMD_RESERVED"
  | .wrStatus _ => "WR_STATUS"
  | .wrRoIndex _ => "WR_RO.INDEX"
  | .wrRoPeak _ => "WR_RO.PEAK"
  | .wrRoRms _ => "WR_RO.RMS"
  | .wrRoFreq _ => "WR_RO.FREQ"
  | .wrUnmappedLo _ _ => "WR_UNMAPPED.LO"
  | .wrUnmappedHi _ _ => "WR_UNMAPPED.HI"
  | .frameMeas _ _ _ _ => "FRAME_MEAS"
  | .frameBad _ _ _ _ _ => "FRAME_BAD"

end Sys2Proof
end

