-- ==== Sys2Proof/Config.lean ====
section
/-! DEFINITION. The build-time parameters of R7 (00_scope.md) as one record, their constraints, the test configurations of
95_test_vectors.md section 0, and the free values of the model (the draws of R145). -/

namespace Sys2Proof

/-- The synthesis parameters of R7, one field each. No step changes them (R6).
DESIGN CHOICE (log 1): the record is a field of State, so a statement over all states is over all configurations. -/
structure Config where
  /-- `MU_BASE`: where the window lies in the host's own address space (R81). No rule reads it. -/
  muBase : Nat := 0
  /-- `ADC_BITS` -/
  adcBits : Nat
  /-- `ADC_MID`, by default 2^(ADC_BITS-1) (D13) -/
  adcMid : Nat := 2 ^ (adcBits - 1)
  /-- `N` -/
  blockN : Nat
  /-- `K` -/
  firK : Nat
  /-- `COEFF[0..K-1]`, Q15 integers -/
  coeff : List Int
  /-- `TIMER_PERIOD` -/
  timerPeriod : Nat
  /-- `FS_HZ` -/
  fsHz : Nat
  /-- `SCALE_NUM` -/
  scaleNum : Nat
  /-- `SCALE_DEN` -/
  scaleDen : Nat
  /-- `FIR_EN`, by default true (D17) -/
  firEn : Bool := true
  /-- `INTEG_EN` -/
  integEn : Bool
  /-- `DT_SCALE` -/
  dtScale : Int
  /-- `INT_SHIFT` -/
  intShift : Nat
  /-- `SMOOTH_LEN`; 0 is smoothing off -/
  smoothLen : Nat
  /-- `PROC_LATENCY` -/
  procLatency : Nat
  /-- `SCLK_DIV` -/
  sclkDiv : Nat
  /-- `GUARD_PRE` -/
  guardPre : Nat
  /-- `GUARD_POST` -/
  guardPost : Nat
  /-- `RX_MAX` -/
  rxMax : Nat
  /-- `ACC_W` -/
  accW : Nat
  deriving DecidableEq, Repr

/-- `FREQ_SCALE` = 10, fixed by the source (R7). -/
def freqScale : Nat := 10

/-- The integer range of a signed 16-bit value. -/
abbrev inS16 (v : Int) : Prop := -32768 ≤ v ∧ v ≤ 32767

/-- The constraints of R7 on the sizes. `ACC_W ≥ 33 + ceil(log2(K/2))` is said as `K/2 ≤ 2^(ACC_W - 33)`. -/
def Config.sizesLegal (c : Config) : Bool :=
  decide (10 ≤ c.adcBits) && decide (c.adcBits ≤ 12) && decide (c.adcMid < 2 ^ c.adcBits)
    && decide (1 ≤ c.blockN) && decide (c.blockN ≤ 65535)
    && decide (c.smoothLen ≤ 255) && decide (7 ≤ c.rxMax)
    && decide (33 ≤ c.accW) && decide (c.firK / 2 ≤ 2 ^ (c.accW - 33))

/-- The constraints of R7 and R170 on the filter: K even, at least 2, K coefficients in Q15 range, symmetric. -/
def Config.firLegal (c : Config) : Bool :=
  decide (c.firK % 2 = 0) && decide (2 ≤ c.firK) && decide (c.coeff.length = c.firK)
    && c.coeff.all (fun v => decide (inS16 v)) && decide (c.coeff.reverse = c.coeff)

/-- The constraints of R7 on rates, scales and durations. -/
def Config.ratesLegal (c : Config) : Bool :=
  decide (1 ≤ c.timerPeriod) && decide (1 ≤ c.fsHz) && decide (1 ≤ c.scaleDen) && decide (inS16 c.dtScale)
    && decide (c.intShift ≤ 31) && decide (1 ≤ c.procLatency) && decide (1 ≤ c.sclkDiv)

/-- A configuration the spec describes; any other is refused (R7, R170, F1 of 93_implementation_defined.md). -/
def Config.legal (c : Config) : Bool := c.sizesLegal && c.firLegal && c.ratesLegal

/-- CFG-P of 95_test_vectors.md section 0, with the timing parameters given there.
DESIGN CHOICE (log 2): DT_SCALE, INT_SHIFT, ACC_W and MU_BASE, which that section does not give. -/
def cfgP : Config :=
  { adcBits := 10, blockN := 4, firK := 2, coeff := [16384, 16384], timerPeriod := 3, fsHz := 5000,
    scaleNum := 1, scaleDen := 1, integEn := false, dtScale := 0, intShift := 0, smoothLen := 0,
    procLatency := 2, sclkDiv := 1, guardPre := 2, guardPost := 2, rxMax := 7, accW := 33 }

/-- CFG-A of 95_test_vectors.md section 0. -/
def cfgA : Config := { cfgP with firK := 4, coeff := [4096, 12288, 12288, 4096], accW := 34 }

/-- CFG-S of 95_test_vectors.md section 0. -/
def cfgS : Config := { cfgP with smoothLen := 2 }

/-- CFG-E of 95_test_vectors.md section 0, for a block of `n` samples. DESIGN CHOICE (log 2): K, COEFF and INTEG_EN, which that row leaves
open ("any", "unused", "per vector"), are those of CFG-P. -/
def cfgE (n : Nat) : Config := { cfgP with adcBits := 12, adcMid := 0, blockN := n, firEn := false }

/-- What the converter does with one `adc_start`: answer after `latency` MU cycles with `reading` (R145). -/
structure AdcAnswer where
  latency : Nat
  reading : Reading
  deriving DecidableEq, Repr

/-- FREE VALUE (log 3): the k-th conversion answer that no list in State names, the draws V1 and V2 of
93_implementation_defined.md; `none` is a converter that never answers (R150). Nothing constrains it. -/
opaque Config.freeAdcAnswer : Nat → Option AdcAnswer

end Sys2Proof
end

