-- ==== Sys2Proof/Machine/State.lean ====
section
/-! DEFINITION. The state of the machine as plain data: the MU (10_state.md R35 to R39 and the output ports of R59), the SU (R40, R60),
the agents outside them (R32) and the configuration (R6, R7); the reset state (R55, R56); the reasons a step can stop. -/

namespace Sys2Proof.Machine

/-- Transmitter state (R38). -/
inductive TxState where
  | idle | pre | bits | post
  deriving DecidableEq, Repr

/-- Receiver state (R40). -/
inductive RxState where
  | idle | collecting
  deriving DecidableEq, Repr

/-- The events of the link (R258). -/
inductive LinkEvent where
  | csFall
  | bit (b : Bool)
  | csRise
  deriving DecidableEq, Repr

/-- The response to one bus access, on the ports in the cycle after it (R59). `rdata` is `none` where the spec states no read data:
after a write (log 10). -/
structure BusResp where
  rdata : Option Word
  err : Bool
  deriving DecidableEq, Repr

/-- Master unit: R35 to R39, with the output ports `adc_start` and the bus response (R59). -/
structure MU where
  /-- `tick_en` -/
  tickEn : Bool
  /-- `tcnt` -/
  tcnt : Nat
  /-- `conv_en` -/
  convEn : Bool
  /-- `adc_pending` -/
  adcPending : Bool
  /-- `idx` -/
  idx : Nat
  /-- `blk[0..N-1]` -/
  blk : List Reading
  /-- `ready` -/
  ready : Bool
  /-- `tap[0..K-1]`, two's complement -/
  tap : List Half
  /-- `tap_idx` -/
  tapIdx : Nat
  /-- `proc_busy` -/
  procBusy : Bool
  /-- `proc_cnt` -/
  procCnt : Nat
  /-- `res_peak` -/
  resPeak : Half
  /-- `res_rms` -/
  resRms : Half
  /-- `res_freq` -/
  resFreq : Half
  /-- `res_valid` -/
  resValid : Bool
  /-- `ma_peak[0..L-1]` -/
  maPeak : List Half
  /-- `ma_rms[0..L-1]` -/
  maRms : List Half
  /-- `ma_idx` -/
  maIdx : Nat
  /-- `ma_cnt` -/
  maCnt : Nat
  /-- `tx_state` -/
  txState : TxState
  /-- `tx_shift` -/
  txShift : BitVec 64
  /-- `tx_bitcnt` -/
  txBitcnt : Nat
  /-- `tx_cyc` -/
  txCyc : Nat
  /-- `cs_n` -/
  csN : Bool
  /-- `sclk` -/
  sclk : Bool
  /-- `mosi` -/
  mosi : Bool
  /-- `cmd_err` -/
  cmdErr : Bool
  /-- `tick_missed` -/
  tickMissed : Bool
  /-- `sq_ovf` -/
  sqOvf : Bool
  /-- output `adc_start` -/
  adcStart : Bool
  /-- outputs `bus_rdata`, `bus_err`: the response to the access of the last MU cycle, `none` after a cycle without one -/
  busResp : Option BusResp
  deriving DecidableEq, Repr

/-- Slave unit: R40, with the dispatch port (R60). -/
structure SU where
  /-- `rx_state` -/
  rxState : RxState
  /-- `rx_bitcnt` -/
  rxBitcnt : Nat
  /-- `rx_shift` -/
  rxShift : Byte
  /-- `rx_wcnt` -/
  rxWcnt : Nat
  /-- `rx_buf[0..RX_MAX-1]` -/
  rxBuf : List Byte
  /-- `rx_len` -/
  rxLen : Nat
  /-- `disp_valid` -/
  dispValid : Bool
  /-- `disp_peak` -/
  dispPeak : Half
  /-- `disp_rms` -/
  dispRms : Half
  /-- `disp_freq` -/
  dispFreq : Half
  deriving DecidableEq, Repr

/-- A conversion the ADC converter is working on: answered after `left` more MU cycles with `reading` (R145). -/
structure AdcJob where
  left : Nat
  reading : Reading
  deriving DecidableEq, Repr

/-- What the host does with one MU cycle (R32, R107). -/
inductive HostOp where
  /-- no access -/
  | idle
  /-- one access -/
  | access (t : BusWord)
  /-- `wait REG, m, v`: a read of `addr`, repeated until (value AND mask) = value (R107); what the host makes of BusError
  at an unaligned `addr` is log 26 -/
  | wait (addr : Offset) (mask value : Word)
  deriving DecidableEq, Repr

/-- Inputs of one MU clock cycle beside the host's operation: the reset pin (R360) and an `adc_done` pulse that is no answer of the
converter (R148). -/
structure MuIn where
  rst : Bool := false
  stray : Option Reading := none
  deriving DecidableEq, Repr

/-- What happens in one SU clock cycle. -/
inductive SuIn where
  /-- the SU's `rst_n` is 0 (R362); beside the frame in transmission (R367) the oldest `lost` events on the wire pass by unobserved in
  this cycle (log 9) -/
  | reset (lost : Nat)
  /-- no link event is observed in this cycle -/
  | idle
  /-- the oldest link event of the MU that is still unobserved is observed, if there is one (R87) -/
  | observe
  /-- an event from a link driver other than the MU -/
  | event (e : LinkEvent)
  /-- a whole frame (66 events) from a link driver other than the MU, taken in one turn (log 19) -/
  | frame (w : FrameWord)
  deriving DecidableEq, Repr

/-- One turn of the two clocks: which of them ticks, and with which inputs (R33, R60; log 5). The MU ticks first (log 25). -/
structure Turn where
  mu : Option MuIn
  su : Option SuIn
  deriving DecidableEq, Repr

/-- The machine and its surroundings. -/
structure State where
  /-- the build-time parameters (R6, R7), changed by no step -/
  cfg : Config
  mu : MU
  su : SU
  /-- the converter's pending request (R145, R363) -/
  adc : Option AdcJob
  /-- events the MU has put on the link and the SU has not observed, oldest first (R87) -/
  link : List LinkEvent
  /-- the host's coming operations, oldest first; none listed is an idle host (log 6) -/
  host : List HostOp
  /-- the coming turns, oldest first; none listed is a quiet turn of both clocks (log 5) -/
  turns : List Turn
  /-- the converter's coming answers, oldest first; none listed is a free value (log 3) -/
  adcDraws : List (Option AdcAnswer)
  /-- how many free answers have been drawn (log 3) -/
  drawCnt : Nat
  deriving DecidableEq, Repr

/-- No step of the hardware faults (R330, R346): this type has no value. -/
inductive Fault where
  deriving DecidableEq, Repr

/-- Why a step has no meaning. -/
inductive Refusal where
  /-- raised by `exec` for an instruction that has no meaning yet; safe -/
  | notModelled (mnemonic : String)
  /-- raised by `step` for a configuration outside the constraints of R7 (R170, R286: a model refuses it); safe -/
  | illegalConfig
  deriving DecidableEq, Repr

/-- Every MU field at its reset value (R55). -/
def MU.reset (c : Config) : MU :=
  { tickEn := false, tcnt := 0, convEn := false, adcPending := false, idx := 0,
    blk := List.replicate c.blockN 0#12, ready := false,
    tap := List.replicate c.firK 0#16, tapIdx := 0,
    procBusy := false, procCnt := 0, resPeak := 0#16, resRms := 0#16, resFreq := 0#16, resValid := false,
    maPeak := List.replicate c.smoothLen 0#16, maRms := List.replicate c.smoothLen 0#16, maIdx := 0, maCnt := 0,
    txState := .idle, txShift := 0#64, txBitcnt := 0, txCyc := 0, csN := true, sclk := false, mosi := false,
    cmdErr := false, tickMissed := false, sqOvf := false, adcStart := false, busResp := none }

/-- Every SU field at its reset value (R56). -/
def SU.reset (c : Config) : SU :=
  { rxState := .idle, rxBitcnt := 0, rxShift := 0#8, rxWcnt := 0, rxBuf := List.replicate c.rxMax 0#8, rxLen := 0,
    dispValid := false, dispPeak := 0#16, dispRms := 0#16, dispFreq := 0#16 }

/-- The machine right after a reset of both units, for any configuration, with no input listed (R360, R362, R365). -/
def State.resetOf (c : Config) : State :=
  { cfg := c, mu := MU.reset c, su := SU.reset c, adc := none, link := [], host := [], turns := [], adcDraws := [],
    drawCnt := 0 }

/-- The machine right after reset, in the configuration CFG-P. DESIGN CHOICE (log 2): the configuration. -/
def State.reset : State := State.resetOf cfgP

end Sys2Proof.Machine
end

