-- ==== Sys2Proof/Machine/Ops.lean ====
section
/-! DEFINITION. The shared operations: the arithmetic of R11, the integer square root (R207), the bus response and the BusError
response (R310, R318), which stands here where another hardware takes an exception: this one has no exception, no saved state, no
handler and no return (R330, R338, R339); the frame of a triple (R110) and its link events (R112, R258); the draws of the ADC
converter (R145); where a packet is placed for the next step. -/

namespace Sys2Proof.Machine

/-! ## Arithmetic of R11 -/

/-- `asr(v, s)`: floor(v / 2^s). -/
def asr (v : Int) (s : Nat) : Int := v / 2 ^ s

/-- `sat_s16` -/
def satS16 (v : Int) : Int := min (max v (-32768)) 32767

/-- `sat_u16` of a value that is not negative -/
def satU16 (v : Nat) : Nat := min v 65535

/-- `sat_u32` of a value that is not negative -/
def satU32 (v : Nat) : Nat := min v 4294967295

/-- One digit at a time, from bit `b - 1` down: keep the bit if the root so far with it is not too large. -/
def isqrtFrom (m : Nat) : Nat → Nat → Nat
  | 0, r => r
  | b + 1, r => isqrtFrom m b (if (r + 2 ^ b) * (r + 2 ^ b) ≤ m then r + 2 ^ b else r)

/-- `isqrt(m)` for m below 2^32: the largest r with r·r ≤ m (R207; log 23). -/
def isqrt (m : Nat) : Nat := isqrtFrom m 16 0

/-! ## Outcomes -/

/-- Go on from a next state; a fault or a refusal stays. -/
def andThen (o : Host.Outcome State Fault Refusal) (f : State → Host.Outcome State Fault Refusal) :
    Host.Outcome State Fault Refusal :=
  match o with
  | .next s => f s
  | .fault r => .fault r
  | .refused r => .refused r

/-! ## The bus response (R59, R310, R311, R318) -/

/-- The MU after `f`, everything else as it was. -/
def State.onMu (s : State) (f : MU → MU) : State := { s with mu := f s.mu }

/-- The response of a read: the value, no error (R310). -/
def respondRead (v : Word) (s : State) : State :=
  s.onMu (fun m => { m with busResp := some { rdata := some v, err := false } })

/-- The response of a performed write: no error (R311); the spec states no read data (log 10). -/
def respondWrite (s : State) : State :=
  s.onMu (fun m => { m with busResp := some { rdata := none, err := false } })

/-- The two causes of R332; signalled on no port. -/
inductive BusErrCause where
  | size | align
  deriving DecidableEq, Repr

/-- The cause of an access's BusError, if it has one, in the order of R102 and R332. -/
def busErrCause (t : BusWord) : Option BusErrCause :=
  if busSize t ≠ 2#2 then some .size
  else if (busAddr t).extractLsb' 0 2 ≠ 0#2 then some .align
  else none

/-- BusError (R318): rdata 0, err 1, no state change. The cause is on no port. -/
def busError (s : State) : State :=
  s.onMu (fun m => { m with busResp := some { rdata := some 0#32, err := true } })

/-! ## Frames and link events -/

/-- FRAME(p, r, f) = 0x02, 0x00, p, r, f (R110). -/
def frameOf (p r f : Half) : FrameWord := frameWord 0x02#8 0x00#8 p r f

/-- The 64 bits of a frame in the order of the link: bit 63 first (R112). -/
def frameBits (w : FrameWord) : List Bool := (List.range 64).map (fun k => w.getLsbD (63 - k))

/-- The 66 link events of one frame (R258). -/
def frameEvents (w : FrameWord) : List LinkEvent :=
  LinkEvent.csFall :: ((frameBits w).map LinkEvent.bit ++ [LinkEvent.csRise])

/-! ## The ADC converter (R145, R363) -/

/-- The converter's next answer: the oldest listed one, or a free value (log 3). -/
def drawAnswer (s : State) : Option AdcAnswer × State :=
  match s.adcDraws with
  | d :: ds => (d, { s with adcDraws := ds })
  | [] => (Config.freeAdcAnswer s.drawCnt, { s with drawCnt := s.drawCnt + 1 })

/-- The converter takes an `adc_start`: it will answer after the drawn latency (at least one cycle: `adcPhase` counts a latency of 0
as 1), or never (R145, R150). -/
def startConverter (s : State) : State :=
  let (a, s') := drawAnswer s
  { s' with adc := a.map (fun x => { left := x.latency, reading := x.reading }) }

/-- The reading as `adc_data` carries it: ADC_BITS bits (R59; log 15). -/
def adcPort (c : Config) (v : Reading) : Reading := BitVec.ofNat 12 (v.toNat % 2 ^ c.adcBits)

/-! ## Placing a packet for the next step (log 7) -/

/-- The next turn is one MU cycle in which the host makes this access. -/
def placeBus (t : BusWord) (s : State) : State :=
  { s with host := .access t :: s.host, turns := { mu := some {}, su := none } :: s.turns }

/-- The next turn is one in which a link driver delivers this frame to the SU. -/
def placeFrame (w : FrameWord) (s : State) : State :=
  { s with turns := { mu := none, su := some (.frame w) } :: s.turns }

end Sys2Proof.Machine
end

