-- ==== Sys2Proof/Machine/BusError.lean ====
section
/-! DEFINITION. The accesses that get BusError (R318, R332). -/

namespace Sys2Proof.Machine

/-- BUS_ERR_SIZE.B (R318). -/
def execBusErrSizeB (_w : Bool) (_addr : Offset) (_data : Word) (s : State) : Host.Outcome State Fault Refusal :=
  .next (busError s)

/-- BUS_ERR_SIZE.H (R318). -/
def execBusErrSizeH (_w : Bool) (_addr : Offset) (_data : Word) (s : State) : Host.Outcome State Fault Refusal :=
  .next (busError s)

/-- BUS_ERR_SIZE.R (R318). -/
def execBusErrSizeR (_w : Bool) (_addr : Offset) (_data : Word) (s : State) : Host.Outcome State Fault Refusal :=
  .next (busError s)

/-- BUS_ERR_ALIGN.1 (R318). -/
def execBusErrAlign1 (_w : Bool) (_addr : Offset) (_data : Word) (s : State) : Host.Outcome State Fault Refusal :=
  .next (busError s)

/-- BUS_ERR_ALIGN.2 (R318). -/
def execBusErrAlign2 (_w : Bool) (_addr : Offset) (_data : Word) (s : State) : Host.Outcome State Fault Refusal :=
  .next (busError s)

end Sys2Proof.Machine
end

