-- ==== Sys2Proof/Machine/Flags.lean ====
section
/-! DEFINITION. STATUS: its bits as a view of the MU's fields (R43, R319), the write-1-to-clear of the sticky bits (R105, R315), and
the setting of a sticky bit (R51 to R53). -/

namespace Sys2Proof.Machine

/-- A flag times 2^k. -/
def flagAt (b : Bool) (k : Nat) : Nat := b.toNat * 2 ^ k

/-- STATUS.TX_BUSY (R43): the transmitter is not idle. -/
def txBusy (m : MU) : Bool := decide (m.txState ≠ .idle)

/-- The value of STATUS (R319). -/
def statusWord (m : MU) : Word :=
  BitVec.ofNat 32 (flagAt m.convEn 0 + flagAt m.ready 1 + flagAt m.procBusy 2 + flagAt m.resValid 3 + flagAt (txBusy m) 4
    + flagAt m.cmdErr 8 + flagAt m.tickMissed 9 + flagAt m.sqOvf 10)

/-- STATUS_W1C(d) (R315). -/
def statusW1C (d : Word) (m : MU) : MU :=
  { m with cmdErr := m.cmdErr && !d.getLsbD 8
           tickMissed := m.tickMissed && !d.getLsbD 9
           sqOvf := m.sqOvf && !d.getLsbD 10 }

/-- CMD_ERR ← 1 (R51). -/
def setCmdErr (m : MU) : MU := { m with cmdErr := true }

/-- TICK_MISSED ← 1 (R52). -/
def setTickMissed (m : MU) : MU := { m with tickMissed := true }

end Sys2Proof.Machine
end

