-- ==== Sys2Proof/Machine/Operands.lean ====
section
/-! DEFINITION. The register window as an operand: the value behind a word-aligned offset (R41, R319). -/

namespace Sys2Proof.Machine

/-- READVAL(s, ADDR) (R319); every offset but the six of R41 reads 0 (R46). -/
def readVal (m : MU) (a : Offset) : Word :=
  if a = 0x04#6 then statusWord m
  else if a = 0x08#6 then BitVec.ofNat 32 (m.idx % 65536)
  else if a = 0x0C#6 then m.resPeak.setWidth 32
  else if a = 0x10#6 then m.resRms.setWidth 32
  else if a = 0x14#6 then m.resFreq.setWidth 32
  else 0#32

/-- The response of a read of offset `a` (R310). -/
def readRegister (a : Offset) (s : State) : State := respondRead (readVal s.mu a) s

end Sys2Proof.Machine
end

