-- ==== Sys2Proof/Machine/BusRead.lean ====
section
/-! DEFINITION. Reads of the register window (R310, R317, R319): no side effects (R77). -/

namespace Sys2Proof.Machine

/-- RD_CMD (R310, R42). -/
def execRdCmd (s : State) : Host.Outcome State Fault Refusal := .next (readRegister 0x00#6 s)

/-- RD_STATUS (R310, R43). -/
def execRdStatus (s : State) : Host.Outcome State Fault Refusal := .next (readRegister 0x04#6 s)

/-- RD_INDEX (R310, R45). -/
def execRdIndex (s : State) : Host.Outcome State Fault Refusal := .next (readRegister 0x08#6 s)

/-- RD_PEAK (R310, R44). -/
def execRdPeak (s : State) : Host.Outcome State Fault Refusal := .next (readRegister 0x0C#6 s)

/-- RD_RMS (R310, R44). -/
def execRdRms (s : State) : Host.Outcome State Fault Refusal := .next (readRegister 0x10#6 s)

/-- RD_FREQ (R310, R44). -/
def execRdFreq (s : State) : Host.Outcome State Fault Refusal := .next (readRegister 0x14#6 s)

/-- RD_UNMAPPED.LO (R317, R46). -/
def execRdUnmappedLo (sel : BitVec 1) (s : State) : Host.Outcome State Fault Refusal :=
  .next (readRegister (unmappedLo sel) s)

/-- RD_UNMAPPED.HI (R317, R46). -/
def execRdUnmappedHi (sel : BitVec 3) (s : State) : Host.Outcome State Fault Refusal :=
  .next (readRegister (unmappedHi sel) s)

end Sys2Proof.Machine
end

