-- ==== Sys2Proof/Machine/BusWrite.lean ====
section
/-! DEFINITION. Writes to the register window other than commands (R311, R315 to R317). -/

namespace Sys2Proof.Machine

/-- WR_STATUS (R315). -/
def execWrStatus (data : Word) (s : State) : Host.Outcome State Fault Refusal :=
  .next (respondWrite (s.onMu (statusW1C data)))

/-- WR_RO.INDEX (R316). -/
def execWrRoIndex (_data : Word) (s : State) : Host.Outcome State Fault Refusal := .next (respondWrite s)

/-- WR_RO.PEAK (R316). -/
def execWrRoPeak (_data : Word) (s : State) : Host.Outcome State Fault Refusal := .next (respondWrite s)

/-- WR_RO.RMS (R316). -/
def execWrRoRms (_data : Word) (s : State) : Host.Outcome State Fault Refusal := .next (respondWrite s)

/-- WR_RO.FREQ (R316). -/
def execWrRoFreq (_data : Word) (s : State) : Host.Outcome State Fault Refusal := .next (respondWrite s)

/-- WR_UNMAPPED.LO (R317). -/
def execWrUnmappedLo (_sel : BitVec 1) (_data : Word) (s : State) : Host.Outcome State Fault Refusal :=
  .next (respondWrite s)

/-- WR_UNMAPPED.HI (R317). -/
def execWrUnmappedHi (_sel : BitVec 3) (_data : Word) (s : State) : Host.Outcome State Fault Refusal :=
  .next (respondWrite s)

end Sys2Proof.Machine
end

