-- ==== Sys2Proof/Machine/Fir.lean ====
section
/-! DEFINITION. The FIR engine (41_fir.md): CENTRE, the folded convolution over the circular tap buffer, FIR_STEP. -/

namespace Sys2Proof.Machine

/-- The FIR state: `tap` and `tap_idx` (R36). -/
structure Fir where
  tap : List Half
  tapIdx : Nat
  deriving DecidableEq, Repr

/-- CENTRE(raw) (R171). -/
def centre (c : Config) (raw : Reading) : Int := (raw.toNat : Int) - (c.adcMid : Int)

/-- One tap as a signed integer (R36). -/
def tapAt (tap : List Half) (k : Nat) : Int := (tap.getD k 0#16).toInt

/-- COEFF[i]. -/
def coeffAt (c : Config) (i : Nat) : Int := c.coeff.getD i 0

/-- Term i of the folded sum, at the advanced index `j` (R172). -/
def firTerm (c : Config) (tap : List Half) (j i : Nat) : Int :=
  coeffAt c i * (tapAt tap ((j + i) % c.firK) + tapAt tap ((j + c.firK - 1 - i) % c.firK))

/-- The exact accumulator (R172, R173). -/
def firAcc (c : Config) (tap : List Half) (j : Nat) : Int :=
  ((List.range (c.firK / 2)).map (firTerm c tap j)).sum

/-- Insert at the rotating index and advance it (R172). -/
def firInsert (c : Config) (x : Int) (f : Fir) : Fir :=
  { tap := f.tap.set f.tapIdx (BitVec.ofInt 16 x), tapIdx := (f.tapIdx + 1) % c.firK }

/-- The filtered value of a FIR state (R172, R174). -/
def firOut (c : Config) (f : Fir) : Int := satS16 (asr (firAcc c f.tap f.tapIdx) 15)

/-- FIR_STEP(x) (R172): the new FIR state and the filtered sample. -/
def firStep (c : Config) (x : Int) (f : Fir) : Fir × Int :=
  let f' := firInsert c x f
  (f', firOut c f')

/-- FIR_STEP over a list of samples, in order (R202). -/
def firRun (c : Config) : List Int → Fir → Fir × List Int
  | [], f => (f, [])
  | x :: xs, f =>
    let (f1, y) := firStep c x f
    let (f2, ys) := firRun c xs f1
    (f2, y :: ys)

end Sys2Proof.Machine
end

