-- ==== Sys2Proof/Machine/Estimator.lean ====
section
/-! DEFINITION. The Estimator (42_estimator.md): PROCESS's effect, the series of a block, peak, RMS, frequency, scaling, smoothing,
PROC_DONE and its timing. -/

namespace Sys2Proof.Machine

/-- PROCESS (R200). -/
def muProcess (c : Config) (m : MU) : MU :=
  if m.ready = true ∧ m.procBusy = false then
    { m with ready := false, procBusy := true, procCnt := c.procLatency }
  else setCmdErr m

/-! ## The series (R202) -/

/-- The centred samples of the block, j = 0 .. N-1. -/
def centredBlock (c : Config) (m : MU) : List Int :=
  (List.range c.blockN).map (fun j => centre c (m.blk.getD j 0#12))

/-- The filtered series, or the centred one with the FIR bypassed. -/
def filterBlock (c : Config) (xs : List Int) (f : Fir) : Fir × List Int :=
  if c.firEn then firRun c xs f else (f, xs)

/-- The integrator, from the running sum `y`. -/
def integrateFrom (c : Config) (y : Int) : List Int → List Int
  | [] => []
  | f :: fs =>
    let y' := satS16 (y + asr (f * c.dtScale) c.intShift)
    y' :: integrateFrom c y' fs

/-- The integration variant starts every block at 0; without it the series is the filtered one. -/
def integrate (c : Config) (fs : List Int) : List Int :=
  if c.integEn then integrateFrom c 0 fs else fs

/-- The FIR state of the MU. -/
def firOf (m : MU) : Fir := { tap := m.tap, tapIdx := m.tapIdx }

/-- The new FIR state and the estimator series e[0..N-1]. -/
def series (c : Config) (m : MU) : Fir × List Int :=
  let (f, ys) := filterBlock c (centredBlock c m) (firOf m)
  (f, integrate c ys)

/-! ## The estimates (R204 to R211) -/

/-- PEAK_RAW (R204). -/
def peakRaw (e : List Int) : Nat := e.foldr (fun v a => max v.natAbs a) 0

/-- The exact sum of squares. -/
def sumSqExact (e : List Int) : Nat := (e.map (fun v => v.natAbs * v.natAbs)).sum

/-- SUMSQ (R205). -/
def sumSq (e : List Int) : Nat := satU32 (sumSqExact e)

/-- Whether SUMSQ saturated (R205). -/
def sumSqOvf (e : List Int) : Bool := decide (4294967295 < sumSqExact e)

/-- MEAN (R206). -/
def meanSq (c : Config) (e : List Int) : Nat := sumSq e / c.blockN

/-- ROOT (R207). -/
def rmsRaw (c : Config) (e : List Int) : Nat := isqrt (meanSq c e)

/-- SCALE(v) (R208). -/
def scale (c : Config) (v : Nat) : Nat := satU16 (v * c.scaleNum / c.scaleDen)

/-- The sign for crossing detection: zero is non-negative (R210). -/
def isNeg (v : Int) : Bool := decide (v < 0)

/-- ZERO_CROSSINGS (R210): consecutive pairs of different sign. -/
def zeroCrossings : List Int → Nat
  | [] => 0
  | [_] => 0
  | a :: b :: rest => (if isNeg a ≠ isNeg b then 1 else 0) + zeroCrossings (b :: rest)

/-- FREQ (R211). -/
def freqOf (c : Config) (zc : Nat) : Nat := satU16 (zc * c.fsHz * freqScale / (2 * c.blockN))

/-! ## Smoothing (R213) -/

/-- The moving-average buffers (R37). -/
structure Smooth where
  maPeak : List Half
  maRms : List Half
  maIdx : Nat
  maCnt : Nat
  deriving DecidableEq, Repr

/-- The truncated average of the first `n` slots of a buffer. -/
def averageOf (buf : List Half) (n : Nat) : Nat :=
  ((List.range n).map (fun k => (buf.getD k 0#16).toNat)).sum / n

/-- SMOOTH(peak_s, rms_s) (R213): the new buffers and the two averages. -/
def smooth (c : Config) (peakS rmsS : Nat) (b : Smooth) : Smooth × Nat × Nat :=
  if c.smoothLen = 0 then (b, peakS, rmsS)
  else
    let b' : Smooth :=
      { maPeak := b.maPeak.set b.maIdx (BitVec.ofNat 16 peakS)
        maRms := b.maRms.set b.maIdx (BitVec.ofNat 16 rmsS)
        maIdx := (b.maIdx + 1) % c.smoothLen
        maCnt := min (b.maCnt + 1) c.smoothLen }
    (b', averageOf b'.maPeak b'.maCnt, averageOf b'.maRms b'.maCnt)

/-- The smoothing state of the MU. -/
def smoothOf (m : MU) : Smooth := { maPeak := m.maPeak, maRms := m.maRms, maIdx := m.maIdx, maCnt := m.maCnt }

/-! ## PROC_DONE (R201, R212) -/

/-- The scaled peak of a series. -/
def peakScaled (c : Config) (e : List Int) : Nat := scale c (peakRaw e)

/-- The scaled RMS of a series. -/
def rmsScaled (c : Config) (e : List Int) : Nat := scale c (rmsRaw c e)

/-- The scaled frequency of a series. -/
def freqScaled (c : Config) (e : List Int) : Nat := freqOf c (zeroCrossings e)

/-- PROC_DONE (R212): compute, smooth and commit one block, in one step. -/
def procDone (c : Config) (m : MU) : MU :=
  let (f, e) := series c m
  let (b, peakO, rmsO) := smooth c (peakScaled c e) (rmsScaled c e) (smoothOf m)
  { m with
    tap := f.tap, tapIdx := f.tapIdx
    maPeak := b.maPeak, maRms := b.maRms, maIdx := b.maIdx, maCnt := b.maCnt
    resPeak := BitVec.ofNat 16 peakO, resRms := BitVec.ofNat 16 rmsO, resFreq := BitVec.ofNat 16 (freqScaled c e)
    resValid := true, procBusy := false
    sqOvf := m.sqOvf || sumSqOvf e }

/-- One MU cycle of a busy processing engine (R201): count down, and PROC_DONE at 0. -/
def procCount (c : Config) (m : MU) : MU :=
  if m.procBusy then
    let m1 := { m with procCnt := m.procCnt - 1 }
    if m1.procCnt = 0 then procDone c m1 else m1
  else m

end Sys2Proof.Machine
end

