-- ==== Sys2Proof/Machine/Framer.lean ====
section
/-! DEFINITION. The Link Framer (43_framer.md): SEND's effect and TX_STEP, with the link event each produces. Pins of a phase are set at
the end of the last cycle of the phase before it (log 11). -/

namespace Sys2Proof.Machine

/-- SEND (R250): the new MU and the link event CS_FALL when accepted. -/
def muSend (m : MU) : MU × List LinkEvent :=
  if m.txState = .idle then
    let w := frameOf m.resPeak m.resRms m.resFreq
    ({ m with txShift := w, txBitcnt := 0, txCyc := 0, txState := .pre, csN := false, sclk := false, mosi := w.getLsbD 63 },
      [.csFall])
  else (setCmdErr m, [])

/-- The pins and state at the start of a bit's low half (R253). -/
def enterLow (m : MU) : MU :=
  { m with txState := .bits, csN := false, sclk := false, mosi := m.txShift.getLsbD 63, txCyc := 0 }

/-- Completion (R256): the link event CS_RISE. -/
def txFinish (m : MU) : MU × List LinkEvent :=
  ({ m with csN := true, sclk := false, mosi := false, txState := .idle, txCyc := 0 }, [.csRise])

/-- One more cycle spent in the current phase (R254). -/
def txWait (m : MU) : MU × List LinkEvent := ({ m with txCyc := m.txCyc + 1 }, [])

/-- One cycle of a bit's low half; at its end `sclk` rises and the bit is on the link (R252, R258). -/
def txLow (c : Config) (m : MU) : MU × List LinkEvent :=
  if c.sclkDiv ≤ m.txCyc + 1 then ({ m with sclk := true, txCyc := 0 }, [.bit m.mosi]) else txWait m

/-- A high half ends: count the bit and shift (R254). -/
def shiftBit (m : MU) : MU := { m with txBitcnt := m.txBitcnt + 1, txShift := m.txShift <<< 1 }

/-- What follows the last high half: the guard after, or, with GUARD_POST = 0, completion (R256). -/
def txAfterBits (c : Config) (m : MU) : MU × List LinkEvent :=
  if c.guardPost = 0 then txFinish m
  else ({ m with txState := .post, csN := false, sclk := false, mosi := false, txCyc := 0 }, [])

/-- One cycle of a bit's high half (R254). -/
def txHigh (c : Config) (m : MU) : MU × List LinkEvent :=
  if c.sclkDiv ≤ m.txCyc + 1 then
    let m1 := shiftBit m
    if 64 ≤ m1.txBitcnt then txAfterBits c m1 else (enterLow m1, [])
  else txWait m

/-- TX_STEP (R254): one MU cycle of the transmitter. -/
def txStep (c : Config) (m : MU) : MU × List LinkEvent :=
  match m.txState with
  | .idle => (m, [])
  | .pre =>
    if c.guardPre = 0 then txLow c (enterLow m)
    else if c.guardPre ≤ m.txCyc + 1 then (enterLow m, []) else txWait m
  | .bits => if m.sclk then txHigh c m else txLow c m
  | .post => if c.guardPost ≤ m.txCyc + 1 then txFinish m else txWait m

end Sys2Proof.Machine
end

