-- ==== Sys2Proof/Machine/Sampler.lean ====
section
/-! DEFINITION. The Sampler (40_sampler.md): START's effect, TIMER_COUNT, TICK, ADC_DONE, block full. -/

namespace Sys2Proof.Machine

/-- START (R141). -/
def muStart (m : MU) : MU :=
  if m.convEn = false ∧ m.procBusy = false then
    { m with idx := 0, ready := false, convEn := true, tickEn := true, tcnt := 0 }
  else setCmdErr m

/-- TICK (R143, R144). -/
def tick (m : MU) : MU :=
  if m.convEn then
    if m.adcPending = false then { m with adcStart := true, adcPending := true } else setTickMissed m
  else m

/-- TIMER_COUNT (R142). -/
def timerCount (c : Config) (m : MU) : MU :=
  if m.tickEn then
    if m.tcnt = c.timerPeriod - 1 then tick { m with tcnt := 0 } else { m with tcnt := m.tcnt + 1 }
  else m

/-- Block full (R147). -/
def blockFull (m : MU) : MU := { m with convEn := false, tickEn := false, tcnt := 0, ready := true }

/-- The storing of one reading at index `idx` (R146). -/
def storeSample (v : Reading) (m : MU) : MU := { m with blk := m.blk.set m.idx v, idx := m.idx + 1 }

/-- ADC_DONE(v) (R146, R148). -/
def adcDone (c : Config) (v : Reading) (m : MU) : MU :=
  if m.adcPending then
    let m1 := { m with adcPending := false }
    if m1.idx < c.blockN then
      if m1.idx + 1 = c.blockN then blockFull (storeSample v m1) else storeSample v m1
    else m1
  else m

end Sys2Proof.Machine
end

