-- ==== Sys2Proof/Machine/Command.lean ====
section
/-! DEFINITION. The commands written to CMD (R103, R312): each is performed in full or refused with CMD_ERR, and the bus response is
normal either way (R314). -/

namespace Sys2Proof.Machine

/-- SEND's effect on the whole machine: the MU, and CS_FALL on the link. -/
def sendFrame (s : State) : State :=
  let (m, es) := muSend s.mu
  { s with mu := m, link := s.link ++ es }

/-- NOP (R313). -/
def execNop (_hi : BitVec 24) (s : State) : Host.Outcome State Fault Refusal := .next (respondWrite s)

/-- START (R141). -/
def execStart (_hi : BitVec 24) (s : State) : Host.Outcome State Fault Refusal :=
  .next (respondWrite (s.onMu muStart))

/-- PROCESS (R200). -/
def execProcess (_hi : BitVec 24) (s : State) : Host.Outcome State Fault Refusal :=
  .next (respondWrite (s.onMu (muProcess s.cfg)))

/-- SEND (R250). -/
def execSend (_hi : BitVec 24) (s : State) : Host.Outcome State Fault Refusal :=
  .next (respondWrite (sendFrame s))

/-- CMD_RESERVED (R314). -/
def execCmdReserved (_hi : BitVec 24) (_code : Byte) (s : State) : Host.Outcome State Fault Refusal :=
  .next (respondWrite (s.onMu setCmdErr))

end Sys2Proof.Machine
end

