-- ==== Sys2Proof/Machine/Receiver.lean ====
section
/-! DEFINITION. The Link Decoder, the SU (44_decoder.md): CS_FALL, BIT, BYTE_DONE, CS_RISE with its validation, DISPATCH. -/

namespace Sys2Proof.Machine

/-- CS_FALL (R282, R296). -/
def suCsFall (u : SU) : SU := { u with rxState := .collecting, rxBitcnt := 0, rxShift := 0#8, rxWcnt := 0, rxLen := 0 }

/-- BYTE_DONE(v) (R284, R286). -/
def byteDone (c : Config) (v : Byte) (u : SU) : SU :=
  let u1 := { u with rxWcnt := min (u.rxWcnt + 1) 255 }
  if u.rxWcnt ≠ 1 then
    if u.rxLen < c.rxMax then { u1 with rxBuf := u.rxBuf.set u.rxLen v, rxLen := u.rxLen + 1 } else u1
  else u1

/-- `rx_shift` with one more bit, most significant first (R283). -/
def shiftIn (v : Byte) (b : Bool) : Byte := (v <<< 1) ||| BitVec.setWidth 8 (BitVec.ofBool b)

/-- BIT(b) (R283, R287). -/
def suBit (c : Config) (b : Bool) (u : SU) : SU :=
  match u.rxState with
  | .collecting =>
    let u1 := { u with rxShift := shiftIn u.rxShift b, rxBitcnt := u.rxBitcnt + 1 }
    if u1.rxBitcnt = 8 then { byteDone c u1.rxShift u1 with rxBitcnt := 0, rxShift := 0#8 } else u1
  | .idle => u

/-- Payload byte k. -/
def payload (u : SU) (k : Nat) : Byte := u.rxBuf.getD k 0#8

/-- The length check (R290) and the sentinel check (R291). -/
def frameValid (u : SU) : Bool := decide (7 ≤ u.rxLen) && decide (payload u 0 = 0x02#8)

/-- A 16-bit value from its two bytes, high byte first (R292). -/
def halfAt (u : SU) (k : Nat) : Half := payload u k ++ payload u (k + 1)

/-- DISPATCH(p, r, f) (R293). -/
def dispatch (p r f : Half) (u : SU) : SU := { u with dispValid := true, dispPeak := p, dispRms := r, dispFreq := f }

/-- The end of a collection (R289, R294, R295). -/
def closeCollection (u : SU) : SU := { u with rxBitcnt := 0, rxShift := 0#8, rxState := .idle }

/-- CS_RISE (R289). -/
def suCsRise (u : SU) : SU :=
  match u.rxState with
  | .collecting =>
    if frameValid u then dispatch (halfAt u 1) (halfAt u 3) (halfAt u 5) (closeCollection u) else closeCollection u
  | .idle => u

/-- An SU cycle begins: `disp_valid` is 0 unless this cycle dispatches (R281, R293). -/
def suCycleStart (u : SU) : SU := { u with dispValid := false }

/-- One SU cycle that observes a link event (R281). -/
def suEvent (c : Config) (u : SU) (e : LinkEvent) : SU :=
  match e with
  | .csFall => suCsFall (suCycleStart u)
  | .bit b => suBit c b (suCycleStart u)
  | .csRise => suCsRise (suCycleStart u)

/-- SU cycles that observe these events, one a cycle. -/
def suEvents (c : Config) (es : List LinkEvent) (u : SU) : SU := es.foldl (suEvent c) u

/-- A dispatched triple. -/
structure Triple where
  peak : Half
  rms : Half
  freq : Half
  deriving DecidableEq, Repr

/-- What the dispatch port shows in a cycle: a triple while `disp_valid` is 1 (R293). -/
def dispatched (u : SU) : List Triple :=
  if u.dispValid then [{ peak := u.dispPeak, rms := u.dispRms, freq := u.dispFreq }] else []

/-- The triples dispatched while the SU observes these events, in order (R293, R297). -/
def dispatches (c : Config) : List LinkEvent → SU → List Triple
  | [], _ => []
  | e :: es, u => dispatched (suEvent c u e) ++ dispatches c es (suEvent c u e)

end Sys2Proof.Machine
end

