-- ==== Sys2Proof/Machine/Frame.lean ====
section
/-! DEFINITION. The two frame rows of the opcode table (R116): the SU takes the 66 link events of the frame (R258, R297). Whether the
frame is dispatched or dropped is decided by the receiver's own checks at CS_RISE (R289 to R294), not by the row. -/

namespace Sys2Proof.Machine

/-- The SU takes a whole frame. -/
def takeFrame (w : FrameWord) (s : State) : State := { s with su := suEvents s.cfg (frameEvents w) s.su }

/-- FRAME_MEAS (R289, R297). -/
def execFrameMeas (rsvd : Byte) (peak rms freq : Half) (s : State) : Host.Outcome State Fault Refusal :=
  .next (takeFrame (frameWord 0x02#8 rsvd peak rms freq) s)

/-- FRAME_BAD (R294). -/
def execFrameBad (cmd rsvd : Byte) (peak rms freq : Half) (s : State) : Host.Outcome State Fault Refusal :=
  .next (takeFrame (frameWord cmd rsvd peak rms freq) s)

end Sys2Proof.Machine
end

