-- ==== Sys2Proof/Machine/Dispatch.lean ====
section
/-! DEFINITION. One arm for each instruction. -/

namespace Sys2Proof.Machine

def exec (i : Instr) (s : State) : Host.Outcome State Fault Refusal :=
  match i with
  | .busErrSizeB w addr data => Sys2Proof.Machine.execBusErrSizeB w addr data s
  | .busErrSizeH w addr data => Sys2Proof.Machine.execBusErrSizeH w addr data s
  | .busErrSizeR w addr data => Sys2Proof.Machine.execBusErrSizeR w addr data s
  | .busErrAlign1 w addr data => Sys2Proof.Machine.execBusErrAlign1 w addr data s
  | .busErrAlign2 w addr data => Sys2Proof.Machine.execBusErrAlign2 w addr data s
  | .rdCmd => Sys2Proof.Machine.execRdCmd s
  | .rdStatus => Sys2Proof.Machine.execRdStatus s
  | .rdIndex => Sys2Proof.Machine.execRdIndex s
  | .rdPeak => Sys2Proof.Machine.execRdPeak s
  | .rdRms => Sys2Proof.Machine.execRdRms s
  | .rdFreq => Sys2Proof.Machine.execRdFreq s
  | .rdUnmappedLo sel => Sys2Proof.Machine.execRdUnmappedLo sel s
  | .rdUnmappedHi sel => Sys2Proof.Machine.execRdUnmappedHi sel s
  | .nop hi => Sys2Proof.Machine.execNop hi s
  | .start hi => Sys2Proof.Machine.execStart hi s
  | .process hi => Sys2Proof.Machine.execProcess hi s
  | .send hi => Sys2Proof.Machine.execSend hi s
  | .cmdReserved hi code => Sys2Proof.Machine.execCmdReserved hi code s
  | .wrStatus data => Sys2Proof.Machine.execWrStatus data s
  | .wrRoIndex data => Sys2Proof.Machine.execWrRoIndex data s
  | .wrRoPeak data => Sys2Proof.Machine.execWrRoPeak data s
  | .wrRoRms data => Sys2Proof.Machine.execWrRoRms data s
  | .wrRoFreq data => Sys2Proof.Machine.execWrRoFreq data s
  | .wrUnmappedLo sel data => Sys2Proof.Machine.execWrUnmappedLo sel data s
  | .wrUnmappedHi sel data => Sys2Proof.Machine.execWrUnmappedHi sel data s
  | .frameMeas rsvd peak rms freq => Sys2Proof.Machine.execFrameMeas rsvd peak rms freq s
  | .frameBad cmd rsvd peak rms freq => Sys2Proof.Machine.execFrameBad cmd rsvd peak rms freq s

end Sys2Proof.Machine
end

