-- ==== Sys2Proof/Machine/Cycle.lean ====
section
/-! DEFINITION. The clock cycles of the two units: an MU cycle in the order of R33, an MU reset cycle (R360, R363, R364), an SU cycle
(R281, R362), and one turn of both (log 5). -/

namespace Sys2Proof.Machine

/-! ## An MU cycle -/

/-- The one-cycle outputs end: `adc_start` is a pulse and the response ports are valid for one cycle (R59). -/
def beginMuCycle (s : State) : State := s.onMu (fun m => { m with adcStart := false, busResp := none })

/-- The converter in this cycle: the reading it answers with, if it does, and what it goes on with (R145). -/
def converterCycle (job : Option AdcJob) : Option Reading × Option AdcJob :=
  match job with
  | none => (none, none)
  | some j => if j.left ≤ 1 then (some j.reading, none) else (none, some { j with left := j.left - 1 })

/-- Position (2) of R33: ADC_DONE, on the converter's answer or on a stray pulse (R146, R148). -/
def adcPhase (stray : Option Reading) (s : State) : State :=
  let (due, job) := converterCycle s.adc
  let s1 := { s with adc := job }
  match due.or stray with
  | none => s1
  | some v => s1.onMu (adcDone s1.cfg (adcPort s1.cfg v))

/-- Position (3) of R33: TIMER_COUNT and TICK; an `adc_start` starts the converter. -/
def timerPhase (s : State) : State :=
  let s1 := s.onMu (timerCount s.cfg)
  if s1.mu.adcStart then startConverter s1 else s1

/-- Position (4) of R33: PROC_DONE, if due; not in the cycle that accepted PROCESS (R201; log 12). -/
def procPhase (wasBusy : Bool) (s : State) : State :=
  if wasBusy then s.onMu (procCount s.cfg) else s

/-- Position (5) of R33: TX_STEP; not in the cycle that accepted SEND (R254; log 12). -/
def txPhase (wasBusy : Bool) (s : State) : State :=
  if wasBusy then
    let (m, es) := txStep s.cfg s.mu
    { s with mu := m, link := s.link ++ es }
  else s

/-- Positions (2) to (5) of R33, after the bus access. `m0` is the MU at the start of the cycle. -/
def finishMuCycle (i : MuIn) (m0 : MU) (s : State) : State :=
  txPhase (txBusy m0) (procPhase m0.procBusy (timerPhase (adcPhase i.stray s)))

/-- The host's operation in this MU cycle. -/
def nextHostOp (s : State) : HostOp := s.host.headD .idle

/-- The host has presented its operation. -/
def popHost (s : State) : State := { s with host := s.host.tail }

/-- The transaction word an operation presents on the bus (R101, R107). -/
def opWord (op : HostOp) : Option BusWord :=
  match op with
  | .idle => none
  | .access t => some t
  | .wait addr _ _ => some (rdWord addr)

/-- The value read satisfies the wait (R107). DESIGN CHOICE (log 26): a waiting host looks at `bus_rdata` alone, so at an unaligned
offset it takes the rdata 0 of BusError for the value read. -/
def waitMet (mask value : Word) (m : MU) : Bool :=
  match m.busResp with
  | some { rdata := some v, err := _ } => decide (v &&& mask = value)
  | _ => false

/-- After the cycle a wait whose condition does not hold is presented again (R107; log 6). -/
def retireHost (op : HostOp) (s : State) : State :=
  match op with
  | .wait addr mask value => if waitMet mask value s.mu then s else { s with host := .wait addr mask value :: s.host }
  | _ => s

/-- CS_RISE, if the reset raises `cs_n` (R364). -/
def resetEvents (m : MU) : List LinkEvent := if m.csN then [] else [.csRise]

/-- The response to an access presented in a reset cycle: rdata 0, err 0 (R360). -/
def resetResp (op : HostOp) : Option BusResp :=
  match opWord op with
  | none => none
  | some _ => some { rdata := some 0#32, err := false }

/-- A cycle with the MU's `rst_n` = 0 (R360); the converter's pending request is dropped (R363). -/
def muResetCycle (op : HostOp) (s : State) : State :=
  { s with mu := { MU.reset s.cfg with busResp := resetResp op }, adc := none, link := s.link ++ resetEvents s.mu }

/-- Position (1) of R33 with the rest of the cycle: the access's instruction runs at the state at the start of the cycle. -/
def muAccessCycle (i : MuIn) (op : HostOp) (s : State) : Host.Outcome State Fault Refusal :=
  match opWord op with
  | none => .next (finishMuCycle i s.mu s)
  | some t => andThen (exec (decodeBus t) s) (fun s1 => .next (finishMuCycle i s.mu s1))

/-- One MU clock cycle. -/
def muCycle (i : MuIn) (s : State) : Host.Outcome State Fault Refusal :=
  let op := nextHostOp s
  let s0 := beginMuCycle (popHost s)
  andThen (if i.rst then .next (muResetCycle op s0) else muAccessCycle i op s0) (fun s1 => .next (retireHost op s1))

/-! ## An SU cycle -/

/-- A cycle that observes nothing. -/
def suIdle (s : State) : State := { s with su := suCycleStart s.su }

/-- A cycle that observes the oldest event on the link. -/
def suObserve (s : State) : State :=
  match s.link with
  | [] => suIdle s
  | e :: es => { s with su := suEvent s.cfg s.su e, link := es }

/-- The events on the wire without those of an open frame: from the last CS_FALL on, if no CS_RISE follows it; whole frames stay. -/
def withoutOpenFrame : List LinkEvent → List LinkEvent
  | [] => []
  | e :: es =>
    if .csFall ∈ es then e :: withoutOpenFrame es
    else if e = .csFall ∧ .csRise ∉ es then []
    else e :: es

/-- What an SU in reset leaves on the wire: while the MU transmits, the frame in transmission is lost, even where its CS_FALL is still
unobserved, and no other (R367); its later bits then find the receiver idle (R287). -/
def linkAfterSuReset (s : State) : List LinkEvent :=
  if txBusy s.mu then withoutOpenFrame s.link else s.link

/-- A cycle with the SU's `rst_n` = 0 (R362): no event is consumed, the frame in transmission is lost (R367), and the oldest `lost`
events that remain pass by (log 9). -/
def suResetCycle (lost : Nat) (s : State) : State :=
  { s with su := SU.reset s.cfg, link := (linkAfterSuReset s).drop lost }

/-- One SU clock cycle; a whole frame runs the frame's instruction (log 19). -/
def suCycle (i : SuIn) (s : State) : Host.Outcome State Fault Refusal :=
  match i with
  | .reset lost => .next (suResetCycle lost s)
  | .idle => .next (suIdle s)
  | .observe => .next (suObserve s)
  | .event e => .next { s with su := suEvent s.cfg s.su e }
  | .frame w => exec (decodeFrame w) s

/-! ## A turn -/

/-- The turn when none is listed: both clocks tick, no reset, no stray pulse, the SU observes the link (log 5). -/
def quietTurn : Turn := { mu := some {}, su := some .observe }

/-- The coming turn. -/
def nextTurn (s : State) : Turn := s.turns.headD quietTurn

/-- The turn has been taken from the list. -/
def popTurn (s : State) : State := { s with turns := s.turns.tail }

/-- The MU's part of a turn. -/
def muPart (i : Option MuIn) (s : State) : Host.Outcome State Fault Refusal :=
  match i with
  | none => .next s
  | some i => muCycle i s

/-- The SU's part of a turn. -/
def suPart (i : Option SuIn) (s : State) : Host.Outcome State Fault Refusal :=
  match i with
  | none => .next s
  | some i => suCycle i s

/-- One turn of the clocks, the MU first (log 25). -/
def runTurn (t : Turn) (s : State) : Host.Outcome State Fault Refusal :=
  andThen (muPart t.mu s) (suPart t.su)

/-- The packet that `withFetchWord` places. -/
def placePacket (p : Packet) (s : State) : State :=
  match p with
  | .bus t => placeBus t s
  | .frame w => placeFrame w s

/-- The packet for a table word, placed; a pattern that is no packet changes nothing. -/
def placeWord (nbits w : Nat) (s : State) : State :=
  match packetOf nbits w with
  | .ok p => placePacket p s
  | .error _ => s

end Sys2Proof.Machine
end

