-- ==== Sys2Proof/Machine/Step.lean ====
section
/-! DEFINITION. One step: one turn of the clocks, in a configuration the spec describes. -/

namespace Sys2Proof.Machine

/-- One turn (log 5); a configuration outside R7 is refused (R170, F1 of 93_implementation_defined.md). -/
def step (s : State) : Host.Outcome State Fault Refusal :=
  if s.cfg.legal then runTurn (nextTurn s) (popTurn s) else .refused .illegalConfig

/-- The state whose next step runs the packet of this table word (log 7): a transaction word as the host's next access, a frame as the
SU's next. -/
def State.withFetchWord (s : State) (nbits w : Nat) : State := placeWord nbits w s

end Sys2Proof.Machine
end

