-- ==== Sys2Proof/Safety.lean ====
section
/-! DEFINITION. The terms claims use: the invariant of the machine (R149, R84, R82 and the ranges of 10_state.md), runs of the
transmitter and of the processing engine alone, and the direct form of the convolution (R175). -/

namespace Sys2Proof.Machine

/-! ## The invariant -/

/-- The Sampler's fields (R35, R149, R84). -/
structure SamplerInv (c : Config) (m : MU) : Prop where
  blkLength : m.blk.length = c.blockN
  blkRange : ∀ r ∈ m.blk, r.toNat < 2 ^ c.adcBits
  tcntRange : m.tcnt < c.timerPeriod
  idxRange : m.idx ≤ c.blockN
  tickIsConv : m.tickEn = m.convEn
  pendingWhileConv : m.adcPending = true → m.convEn = true
  convNotFull : m.convEn = true → m.idx < c.blockN ∧ m.ready = false
  readyFull : m.ready = true → m.idx = c.blockN ∧ m.convEn = false
  procAlone : m.procBusy = true → m.convEn = false ∧ m.ready = false

/-- The FIR engine's and the Estimator's fields (R36, R37, R201). -/
structure EstimatorInv (c : Config) (m : MU) : Prop where
  tapLength : m.tap.length = c.firK
  tapIdxRange : m.tapIdx < c.firK
  maPeakLength : m.maPeak.length = c.smoothLen
  maRmsLength : m.maRms.length = c.smoothLen
  maIdxRange : m.maIdx < c.smoothLen ∨ (c.smoothLen = 0 ∧ m.maIdx = 0)
  maCntRange : m.maCnt ≤ c.smoothLen
  procCntRange : m.procCnt ≤ c.procLatency
  procCounting : m.procBusy = true → 1 ≤ m.procCnt
  noResult : m.resValid = false → m.resPeak = 0#16 ∧ m.resRms = 0#16 ∧ m.resFreq = 0#16

/-- The pins and counters of each transmitter state (R38, R252, R253, R254). -/
def txPinsOk (c : Config) (m : MU) : Prop :=
  match m.txState with
  | .idle => m.csN = true ∧ m.sclk = false ∧ m.mosi = false
  | .pre => m.csN = false ∧ m.sclk = false ∧ m.mosi = m.txShift.getLsbD 63 ∧ m.txBitcnt = 0 ∧ m.txCyc < max 1 c.guardPre
  | .bits => m.csN = false ∧ m.mosi = m.txShift.getLsbD 63 ∧ m.txBitcnt < 64 ∧ m.txCyc < c.sclkDiv
  | .post => m.csN = false ∧ m.sclk = false ∧ m.mosi = false ∧ m.txBitcnt = 64 ∧ m.txCyc < c.guardPost

/-- The Framer's fields. -/
structure FramerInv (c : Config) (m : MU) : Prop where
  bitcntRange : m.txBitcnt ≤ 64
  pins : txPinsOk c m

/-- The receiver's fields (R40, R284, R289). -/
structure ReceiverInv (c : Config) (u : SU) : Prop where
  bufLength : u.rxBuf.length = c.rxMax
  bitcntRange : u.rxBitcnt ≤ 7
  shiftRange : u.rxShift.toNat < 2 ^ u.rxBitcnt
  wcntRange : u.rxWcnt ≤ 255
  lenRange : u.rxLen ≤ c.rxMax
  lenCount : u.rxWcnt < 255 → u.rxLen = min c.rxMax (if 2 ≤ u.rxWcnt then u.rxWcnt - 1 else u.rxWcnt)
  idleEmpty : u.rxState = .idle → u.rxBitcnt = 0 ∧ u.rxShift = 0#8

/-- The invariant of the whole machine. -/
structure Inv (s : State) : Prop where
  legal : s.cfg.legal = true
  sampler : SamplerInv s.cfg s.mu
  estimator : EstimatorInv s.cfg s.mu
  framer : FramerInv s.cfg s.mu
  receiver : ReceiverInv s.cfg s.su

/-! ## Runs of one agent -/

/-- `n` MU cycles of the transmitter alone, with the link events they produce (R254). -/
def txRun (c : Config) : Nat → MU → MU × List LinkEvent
  | 0, m => (m, [])
  | n + 1, m =>
    let (m1, es) := txStep c m
    let (m2, fs) := txRun c n m1
    (m2, es ++ fs)

/-- The MU cycles from the one after SEND to the one of CS_RISE (R253, R376). -/
def txCycles (c : Config) : Nat := c.guardPre + 128 * c.sclkDiv + c.guardPost

/-- `n` MU cycles of the processing engine alone (R201). -/
def procRun (c : Config) (n : Nat) (m : MU) : MU := (procCount c)^[n] m

/-- `n` MU cycles of the sample timer alone (R142). -/
def timerRun (c : Config) (n : Nat) (m : MU) : MU := (timerCount c)^[n] m

/-! ## The direct convolution (R175) -/

/-- Sample x[n-d], 0 before the first one. -/
def sampleBack (xs : List Int) (n d : Nat) : Int := if d ≤ n then xs.getD (n - d) 0 else 0

/-- y[n] of R175: the unfolded sum over all K coefficients, then the shared shift and saturation. -/
def directFir (c : Config) (xs : List Int) (n : Nat) : Int :=
  satS16 (asr (((List.range c.firK).map (fun d => coeffAt c d * sampleBack xs n d)).sum) 15)

/-! ## What a turn does to the MU -/

/-- This turn is an MU clock cycle with the MU in reset. -/
def muInReset (s : State) : Prop := ∃ i, (nextTurn s).mu = some i ∧ i.rst = true

/-- This turn is an MU clock cycle, out of reset, in which the host makes the access `t`. -/
def hostAccesses (s : State) (t : BusWord) : Prop :=
  ∃ i, (nextTurn s).mu = some i ∧ i.rst = false ∧ opWord (nextHostOp s) = some t

/-- None of the MU's agents is at work: no acquisition, no conversion, no processing, no transfer (R365). -/
structure Quiet (m : MU) : Prop where
  noTick : m.tickEn = false
  noConv : m.convEn = false
  noPending : m.adcPending = false
  noProc : m.procBusy = false
  noTx : m.txState = .idle

/-- A command that the MU accepts, by the acceptance tests of R141, R200 and R250. -/
def commandAccepted (m : MU) (i : Instr) : Prop :=
  ∃ hi, (i = .start hi ∧ m.convEn = false ∧ m.procBusy = false) ∨ (i = .process hi ∧ m.ready = true ∧ m.procBusy = false)
    ∨ (i = .send hi ∧ m.txState = .idle)

/-- The bits of a transaction word that decide what the access does (R101, R102, R104, R105). -/
def sameAccess (t t' : BusWord) : Prop :=
  busW t = busW t' ∧ busSize t = busSize t' ∧ busAddr t = busAddr t'
    ∧ (busW t = true → busAddr t = 0x00#6 → cmdCode (busData t) = cmdCode (busData t'))
    ∧ (busW t = true → busAddr t = 0x04#6 → (busData t).extractLsb' 8 3 = (busData t').extractLsb' 8 3)

/-- The transaction word with the bits that decoding does not examine as zeros: bits 44:38, and the DATA of a performed read (R101). -/
def canonicalBus (t : BusWord) : BusWord :=
  busWord (busW t) (busSize t) (busAddr t)
    (if busErrCause t = none ∧ busW t = false then 0#32 else busData t)

end Sys2Proof.Machine
end

