-- ==== Sys2Proof/Certificates/Slice0/Obligations.lean ====
section
/-! DEFINITION. The statements for the provers, from the spec's numbered rules. Names of fields and rules are the spec's. A statement
about `exec` is about every state unless it says otherwise; a statement about `step` says which clocks tick in the turn. -/

open Sys2Proof
open Sys2Proof.Machine

/-! ## Encoding -/

/-- R101, R103, R110: no operand bit of a well-formed instruction is lost by encoding it. -/
def Obligations.DecodeOfEncodeIsIdentity : Prop :=
  ∀ i : Instr, i.wf = true → decode (encode i) = i

/-- R101, R110: decoding loses only the bits that R101 says decoding ignores, gives a well-formed instruction on every word, and every
frame encodes back to itself. The rows' operands are log 13's. -/
def Obligations.EncodeOfDecodeIsCanonical : Prop :=
  (∀ t : BusWord, (decodeBus t).wf = true ∧ encode (decodeBus t) = .bus (canonicalBus t))
    ∧ (∀ w : FrameWord, (decodeFrame w).wf = true ∧ encode (decodeFrame w) = .frame w)

/-- R116: the instruction decoded from a transaction word is a row of the opcode table that matches it, and no matching row has a lower
priority value; a frame is FRAME_MEAS iff its first byte is 0x02 and FRAME_BAD otherwise. Which of
the two overlapping BUS_ERR_ALIGN rows of equal priority is taken is log 14. -/
def Obligations.DecodeFollowsOpcodeTable : Prop :=
  (∀ t : BusWord, ∃ r ∈ busRows, r.mnemonic = (decodeBus t).mnemonic ∧ r.Matches t
      ∧ ∀ r' ∈ busRows, r'.Matches t → r.priority ≤ r'.priority)
    ∧ (∀ w : FrameWord, (decodeFrame w).mnemonic =
        if w &&& 0xFF00000000000000#64 = 0x0200000000000000#64 then "FRAME_MEAS" else "FRAME_BAD")

/-- R320: sample transaction words, written out from R101. -/
def Obligations.SampleWordsDecode : Prop :=
  decodeBus 0x400400000000#48 = .rdStatus ∧ decodeBus 0xC00000000001#48 = .start 0#24
    ∧ decodeBus 0xC00400000100#48 = .wrStatus 0x100#32 ∧ decodeBus 0xC0000000007F#48 = .cmdReserved 0#24 0x7F#8
    ∧ decodeBus 0x400800000000#48 = .rdIndex ∧ decodeBus 0xC00C0000FFFF#48 = .wrRoPeak 0xFFFF#32
    ∧ decodeBus 0x402000000000#48 = .rdUnmappedHi 0#3 ∧ decodeBus 0x000400000000#48 = .busErrSizeB false 0x04#6 0#32
    ∧ decodeBus 0x400600000000#48 = .busErrAlign2 false 0x06#6 0#32
    ∧ decodeFrame 0x020004D202C301F4#64 = .frameMeas 0x00#8 1234#16 707#16 500#16

/-- R101, R104, R105: two accesses that agree on W, SIZE, ADDR and on the bits of DATA that their register examines do the same:
bits 44:38, the DATA of a read, DATA[31:8] of a command and all but DATA[10:8] of a STATUS write do not matter. -/
def Obligations.IgnoredBusBitsDoNotMatter : Prop :=
  ∀ (t t' : BusWord) (s : State), sameAccess t t' → exec (decodeBus t) s = exec (decodeBus t') s

/-! ## Bus responses -/

/-- R332: an access gets BusError (rdata 0, err 1, nothing else changed) exactly when SIZE is not 2 (cause BE_SIZE) or, with SIZE 2,
ADDR[1:0] is not 0 (cause BE_ALIGN); every other access gets a response without an error. -/
def Obligations.BusErrorExactlyForItsTwoCauses : Prop :=
  ∀ (t : BusWord) (s : State),
    ((busSize t ≠ 2#2 ∨ (busAddr t).extractLsb' 0 2 ≠ 0#2) →
      exec (decodeBus t) s = .next { s with mu := { s.mu with busResp := some { rdata := some 0#32, err := true } } })
    ∧ (busSize t = 2#2 ∧ (busAddr t).extractLsb' 0 2 = 0#2 →
      ∃ s' d, exec (decodeBus t) s = .next s' ∧ s'.mu.busResp = some { rdata := d, err := false })
    ∧ (busErrCause t = some .size ↔ busSize t ≠ 2#2)
    ∧ (busErrCause t = some .align ↔ busSize t = 2#2 ∧ (busAddr t).extractLsb' 0 2 ≠ 0#2)

/-- R318: each of the five BusError rows completes with the BusError response and changes nothing else. -/
def Obligations.BusErrorRowsComplete : Prop :=
  ∀ (w : Bool) (a : Offset) (d : Word) (s : State),
    let t : State := { s with mu := { s.mu with busResp := some { rdata := some 0#32, err := true } } }
    exec (.busErrSizeB w a d) s = .next t ∧ exec (.busErrSizeH w a d) s = .next t ∧ exec (.busErrSizeR w a d) s = .next t
      ∧ exec (.busErrAlign1 w a d) s = .next t ∧ exec (.busErrAlign2 w a d) s = .next t

/-- R319, R77: an aligned 32-bit read at any offset answers the value of R319's table and changes nothing else. -/
def Obligations.AlignedReadAnswersRegisterValue : Prop :=
  ∀ (t : BusWord) (s : State),
    busW t = false → busSize t = 2#2 → (busAddr t).extractLsb' 0 2 = 0#2 → s.mu.idx ≤ 65535 →
    ∃ v : Word,
      exec (decodeBus t) s = .next { s with mu := { s.mu with busResp := some { rdata := some v, err := false } } }
      ∧ v.toNat =
        (if (busAddr t).toNat = 0x04 then
            s.mu.convEn.toNat + 2 * s.mu.ready.toNat + 4 * s.mu.procBusy.toNat + 8 * s.mu.resValid.toNat
              + 16 * (if s.mu.txState = .idle then 0 else 1)
              + 256 * s.mu.cmdErr.toNat + 512 * s.mu.tickMissed.toNat + 1024 * s.mu.sqOvf.toNat
          else if (busAddr t).toNat = 0x08 then s.mu.idx
          else if (busAddr t).toNat = 0x0C then s.mu.resPeak.toNat
          else if (busAddr t).toNat = 0x10 then s.mu.resRms.toNat
          else if (busAddr t).toNat = 0x14 then s.mu.resFreq.toNat
          else 0)

/-- R310, R44 to R46, R317: each of the eight read rows completes, with its value and no other change. -/
def Obligations.ReadRowsComplete : Prop :=
  ∀ (lo : BitVec 1) (hi : BitVec 3) (s : State),
    let answer : Word → State := fun v => { s with mu := { s.mu with busResp := some { rdata := some v, err := false } } }
    exec .rdCmd s = .next (answer 0#32)
      ∧ exec .rdStatus s = .next (answer (statusWord s.mu))
      ∧ exec .rdIndex s = .next (answer (BitVec.ofNat 32 (s.mu.idx % 65536)))
      ∧ exec .rdPeak s = .next (answer (s.mu.resPeak.setWidth 32))
      ∧ exec .rdRms s = .next (answer (s.mu.resRms.setWidth 32))
      ∧ exec .rdFreq s = .next (answer (s.mu.resFreq.setWidth 32))
      ∧ exec (.rdUnmappedLo lo) s = .next (answer 0#32)
      ∧ exec (.rdUnmappedHi hi) s = .next (answer 0#32)

/-- R43: the bits of the value read from STATUS; the reserved bits read 0. -/
def Obligations.StatusBitsAreStateImages : Prop :=
  ∀ m : MU,
    (statusWord m).getLsbD 0 = m.convEn ∧ (statusWord m).getLsbD 1 = m.ready ∧ (statusWord m).getLsbD 2 = m.procBusy
      ∧ (statusWord m).getLsbD 3 = m.resValid ∧ (statusWord m).getLsbD 4 = decide (m.txState ≠ .idle)
      ∧ (statusWord m).getLsbD 8 = m.cmdErr ∧ (statusWord m).getLsbD 9 = m.tickMissed ∧ (statusWord m).getLsbD 10 = m.sqOvf
      ∧ ∀ k : Nat, (5 ≤ k ∧ k ≤ 7 ∨ 11 ≤ k) → (statusWord m).getLsbD k = false

/-! ## Commands and writes -/

/-- R141: START, accepted or refused, from the decoded word with any DATA[31:8]. What read data `d` a write's response carries is left
open, here and below (log 10). -/
def Obligations.StartAcceptedOrRefused : Prop :=
  ∀ (hi : BitVec 24) (s : State),
    decodeBus (wrWord 0x00#6 (cmdData hi 0x01#8)) = .start hi
    ∧ (s.mu.convEn = false ∧ s.mu.procBusy = false →
      ∃ d, exec (.start hi) s = .next { s with mu := { s.mu with
        idx := 0, ready := false, convEn := true, tickEn := true, tcnt := 0,
        busResp := some { rdata := d, err := false } } })
    ∧ (¬(s.mu.convEn = false ∧ s.mu.procBusy = false) →
      ∃ d, exec (.start hi) s = .next { s with mu := { s.mu with
        cmdErr := true, busResp := some { rdata := d, err := false } } })

/-- R200: PROCESS, accepted or refused. -/
def Obligations.ProcessAcceptedOrRefused : Prop :=
  ∀ (hi : BitVec 24) (s : State),
    decodeBus (wrWord 0x00#6 (cmdData hi 0x02#8)) = .process hi
    ∧ (s.mu.ready = true ∧ s.mu.procBusy = false →
      ∃ d, exec (.process hi) s = .next { s with mu := { s.mu with
        ready := false, procBusy := true, procCnt := s.cfg.procLatency,
        busResp := some { rdata := d, err := false } } })
    ∧ (¬(s.mu.ready = true ∧ s.mu.procBusy = false) →
      ∃ d, exec (.process hi) s = .next { s with mu := { s.mu with
        cmdErr := true, busResp := some { rdata := d, err := false } } })

/-- R250: SEND, accepted (the frame is latched and CS_FALL is on the link) or refused. -/
def Obligations.SendAcceptedOrRefused : Prop :=
  ∀ (hi : BitVec 24) (s : State),
    decodeBus (wrWord 0x00#6 (cmdData hi 0x03#8)) = .send hi
    ∧ (s.mu.txState = .idle →
      ∃ d, exec (.send hi) s = .next { s with
        mu := { s.mu with
          txShift := 0x0200#16 ++ s.mu.resPeak ++ s.mu.resRms ++ s.mu.resFreq, txBitcnt := 0, txCyc := 0, txState := .pre,
          csN := false, sclk := false, mosi := false, busResp := some { rdata := d, err := false } }
        link := s.link ++ [.csFall] })
    ∧ (s.mu.txState ≠ .idle →
      ∃ d, exec (.send hi) s = .next { s with mu := { s.mu with
        cmdErr := true, busResp := some { rdata := d, err := false } } })

/-- R313, R316, R317: NOP and the writes to read-only and unmapped offsets, from their transaction words, complete and change nothing
but the response, which is normal. -/
def Obligations.NopAndIgnoredWritesChangeNothing : Prop :=
  ∀ (hi : BitVec 24) (d : Word) (lo : BitVec 1) (hs : BitVec 3) (s : State), ∃ x : Option Word,
    let t : State := { s with mu := { s.mu with busResp := some { rdata := x, err := false } } }
    exec (.nop hi) s = .next t ∧ exec (.wrRoIndex d) s = .next t ∧ exec (.wrRoPeak d) s = .next t
      ∧ exec (.wrRoRms d) s = .next t ∧ exec (.wrRoFreq d) s = .next t
      ∧ exec (.wrUnmappedLo lo d) s = .next t ∧ exec (.wrUnmappedHi hs d) s = .next t
      ∧ decodeBus (wrWord 0x00#6 (cmdData hi 0x00#8)) = .nop hi
      ∧ decodeBus (wrWord 0x08#6 d) = .wrRoIndex d ∧ decodeBus (wrWord 0x0C#6 d) = .wrRoPeak d
      ∧ decodeBus (wrWord 0x10#6 d) = .wrRoRms d ∧ decodeBus (wrWord 0x14#6 d) = .wrRoFreq d
      ∧ decodeBus (wrWord (unmappedLo lo) d) = .wrUnmappedLo lo d ∧ decodeBus (wrWord (unmappedHi hs) d) = .wrUnmappedHi hs d

/-- R314: a command code from 0x04 to 0xFF sets CMD_ERR and does nothing else; the response is normal. -/
def Obligations.ReservedCommandSetsCmdErr : Prop :=
  ∀ (hi : BitVec 24) (code : Byte) (s : State), 4 ≤ code.toNat →
    decodeBus (wrWord 0x00#6 (cmdData hi code)) = .cmdReserved hi code
    ∧ ∃ d, exec (.cmdReserved hi code) s = .next { s with mu := { s.mu with
        cmdErr := true, busResp := some { rdata := d, err := false } } }

/-- R315: a STATUS write clears exactly the sticky bits whose DATA bit is 1 and changes nothing else. -/
def Obligations.StatusWriteOneToClear : Prop :=
  ∀ (d : Word) (s : State), ∃ x : Option Word,
    exec (.wrStatus d) s = .next { s with mu := { s.mu with
      cmdErr := if d.getLsbD 8 = true then false else s.mu.cmdErr
      tickMissed := if d.getLsbD 9 = true then false else s.mu.tickMissed
      sqOvf := if d.getLsbD 10 = true then false else s.mu.sqOvf
      busResp := some { rdata := x, err := false } } }

/-- R39, R54, R78: what no bus access changes, whatever its word: the block buffer, the filter, the smoothing state, the results, a
pending conversion, the SU, the inputs; and the link gets at most CS_FALL. -/
def Obligations.BusAccessFrame : Prop :=
  ∀ (t : BusWord) (s : State), ∃ s', exec (decodeBus t) s = .next s'
    ∧ s'.mu.blk = s.mu.blk ∧ s'.mu.tap = s.mu.tap ∧ s'.mu.tapIdx = s.mu.tapIdx
    ∧ s'.mu.maPeak = s.mu.maPeak ∧ s'.mu.maRms = s.mu.maRms ∧ s'.mu.maIdx = s.mu.maIdx ∧ s'.mu.maCnt = s.mu.maCnt
    ∧ s'.mu.resPeak = s.mu.resPeak ∧ s'.mu.resRms = s.mu.resRms ∧ s'.mu.resFreq = s.mu.resFreq
    ∧ s'.mu.resValid = s.mu.resValid ∧ s'.mu.adcPending = s.mu.adcPending ∧ s'.mu.adcStart = s.mu.adcStart
    ∧ s'.su = s.su ∧ s'.cfg = s.cfg ∧ s'.adc = s.adc ∧ s'.host = s.host ∧ s'.turns = s.turns
    ∧ s'.adcDraws = s.adcDraws ∧ s'.drawCnt = s.drawCnt
    ∧ (s'.link = s.link ∨ s'.link = s.link ++ [.csFall])

/-! ## Frames at the SU -/

/-- R297, R291, R292: a frame with the sentinel, whatever its reserved byte, delivered to an SU in any state, completes and dispatches
its triple exactly once; nothing outside the SU changes. That the 66 events come in one step is log 19. -/
def Obligations.FrameMeasDispatchesItsTriple : Prop :=
  ∀ (rsvd : Byte) (p r f : Half) (s : State), 7 ≤ s.cfg.rxMax → s.su.rxBuf.length = s.cfg.rxMax →
    ∃ u : SU, exec (.frameMeas rsvd p r f) s = .next { s with su := u }
      ∧ u.dispValid = true ∧ u.dispPeak = p ∧ u.dispRms = r ∧ u.dispFreq = f
      ∧ u.rxState = .idle ∧ u.rxBitcnt = 0 ∧ u.rxShift = 0#8 ∧ u.rxWcnt = 8 ∧ u.rxLen = 7
      ∧ dispatches s.cfg (frameEvents (frameWord 0x02#8 rsvd p r f)) s.su = [{ peak := p, rms := r, freq := f }]

/-- R294: a frame whose first byte is not the sentinel completes, dispatches nothing and leaves `disp_*` as they were; nothing outside
the SU changes. That the 66 events come in one step is log 19. -/
def Obligations.FrameBadIsDroppedSilently : Prop :=
  ∀ (cmd rsvd : Byte) (p r f : Half) (s : State), cmd ≠ 0x02#8 → 7 ≤ s.cfg.rxMax → s.su.rxBuf.length = s.cfg.rxMax →
    ∃ u : SU, exec (.frameBad cmd rsvd p r f) s = .next { s with su := u }
      ∧ u.dispValid = false ∧ u.dispPeak = s.su.dispPeak ∧ u.dispRms = s.su.dispRms ∧ u.dispFreq = s.su.dispFreq
      ∧ u.rxState = .idle ∧ u.rxBitcnt = 0 ∧ u.rxShift = 0#8
      ∧ dispatches s.cfg (frameEvents (frameWord cmd rsvd p r f)) s.su = []

/-- R290: a collection of fewer than 64 bits (fewer than 8 wire bytes) dispatches nothing and leaves `disp_*` as they were. -/
def Obligations.ShortCollectionIsDropped : Prop :=
  ∀ (c : Config) (bits : List Bool) (u : SU), bits.length < 64 →
    let es := LinkEvent.csFall :: (bits.map LinkEvent.bit ++ [LinkEvent.csRise])
    dispatches c es u = [] ∧ (suEvents c es u).dispPeak = u.dispPeak ∧ (suEvents c es u).dispRms = u.dispRms
      ∧ (suEvents c es u).dispFreq = u.dispFreq

/-- R286, R295: bits after the 64 of a frame, whole bytes or a partial one, change nothing the SU dispatches. -/
def Obligations.ExtraBitsDoNotChangeTheDispatch : Prop :=
  ∀ (c : Config) (w : FrameWord) (extra : List Bool) (u : SU), 7 ≤ c.rxMax → u.rxBuf.length = c.rxMax →
    dispatches c (LinkEvent.csFall :: ((frameBits w ++ extra).map LinkEvent.bit ++ [LinkEvent.csRise])) u
      = dispatches c (frameEvents w) u

/-- R288: RX_MAX is not observable at the dispatch port: from reset, every event sequence gives the same dispatches for every
RX_MAX of at least 7. -/
def Obligations.RxMaxIsUnobservable : Prop :=
  ∀ (c c' : Config) (es : List LinkEvent), 7 ≤ c.rxMax → 7 ≤ c'.rxMax →
    dispatches c es (SU.reset c) = dispatches c' es (SU.reset c')

/-- R287, R289: while the receiver is idle a bit or a CS_RISE changes nothing (but `disp_valid`, which ends with the cycle of its
dispatch). -/
def Obligations.IdleReceiverIgnoresStrayEvents : Prop :=
  ∀ (c : Config) (b : Bool) (u : SU), u.rxState = .idle →
    suEvent c u (.bit b) = { u with dispValid := false } ∧ suEvent c u .csRise = { u with dispValid := false }

/-- R282, R296: CS_FALL opens a fresh collection in any state, dispatching nothing. -/
def Obligations.CsFallRestartsCollection : Prop :=
  ∀ (c : Config) (u : SU),
    suEvent c u .csFall = { u with rxState := .collecting, rxBitcnt := 0, rxShift := 0#8, rxWcnt := 0, rxLen := 0, dispValid := false }

/-! ## The transmitter -/

/-- R258, R253, R256, R376: one accepted SEND produces exactly the 66 link events of its frame, in order; `cs_n` stays 0 and TX_BUSY 1
until the CS_RISE in the (GUARD_PRE + 128·SCLK_DIV + GUARD_POST)-th cycle after the SEND cycle, and the pins end at their idle levels.
That pins change at the end of a phase's last cycle is log 11. -/
def Obligations.SendProducesItsFrameOnTheLink : Prop :=
  ∀ (c : Config) (m : MU), 1 ≤ c.sclkDiv → m.txState = .idle →
    let m0 := (muSend m).1
    let w : FrameWord := 0x0200#16 ++ m.resPeak ++ m.resRms ++ m.resFreq
    (muSend m).2 ++ (txRun c (txCycles c) m0).2
        = LinkEvent.csFall :: (((List.range 64).map (fun k => LinkEvent.bit (w.getLsbD (63 - k)))) ++ [LinkEvent.csRise])
      ∧ (∀ n : Nat, n < txCycles c → (txRun c n m0).1.csN = false ∧ (txRun c n m0).1.txState ≠ .idle)
      ∧ (txRun c (txCycles c) m0).1.txState = .idle ∧ (txRun c (txCycles c) m0).1.csN = true
      ∧ (txRun c (txCycles c) m0).1.sclk = false ∧ (txRun c (txCycles c) m0).1.mosi = false
      ∧ (txRun c (txCycles c) m0).1.txBitcnt = 64

/-- R297: the events of one accepted SEND, delivered to an SU in any state, dispatch the triple that stood in PEAK, RMS and FREQ when
SEND was performed, exactly once and at the last event, the CS_RISE; the same frame with any other first byte dispatches nothing. -/
def Obligations.SentTripleIsDispatchedOnce : Prop :=
  ∀ (c : Config) (m : MU) (u : SU), c.legal = true → m.txState = .idle → u.rxBuf.length = c.rxMax →
    let es := (muSend m).2 ++ (txRun c (txCycles c) (muSend m).1).2
    dispatches c es u = [{ peak := m.resPeak, rms := m.resRms, freq := m.resFreq }]
      ∧ dispatches c es.dropLast u = [] ∧ es.getLast? = some .csRise ∧ es.length = 66
      ∧ ∀ cmd : Byte, cmd ≠ 0x02#8 → dispatches c (frameEvents (frameWord cmd 0x00#8 m.resPeak m.resRms m.resFreq)) u = []

/-- R254: TX_STEP changes only the transmitter's fields and pins, and nothing in TX_IDLE. -/
def Obligations.TxStepFrame : Prop :=
  ∀ (c : Config) (m : MU),
    (∃ st sh n k cs sc mo, (txStep c m).1 = { m with
        txState := st, txShift := sh, txBitcnt := n, txCyc := k, csN := cs, sclk := sc, mosi := mo })
      ∧ (m.txState = .idle → txStep c m = (m, []))
      ∧ (txStep c m).2.length ≤ 1

/-! ## The Sampler -/

/-- R142, R143: from START (`tcnt` = 0), the first TICK is TIMER_COUNT number TIMER_PERIOD: the calls before it only count. -/
def Obligations.TimerTicksEveryPeriod : Prop :=
  ∀ (c : Config) (m : MU), 1 ≤ c.timerPeriod → m.tickEn = true → m.tcnt = 0 →
    (∀ n : Nat, n < c.timerPeriod → timerRun c n m = { m with tcnt := n })
      ∧ timerRun c c.timerPeriod m = tick { m with tcnt := 0 }

/-- R143, R144: what a TICK does. -/
def Obligations.TickStartsOrMisses : Prop :=
  ∀ m : MU, m.convEn = true →
    (m.adcPending = false → tick m = { m with adcStart := true, adcPending := true })
      ∧ (m.adcPending = true → tick m = { m with tickMissed := true })

/-- R146, R147, R148: what an ADC_DONE does: store, fill the block, or nothing. -/
def Obligations.AdcDoneStoresOneSample : Prop :=
  ∀ (c : Config) (v : Reading) (m : MU),
    (m.adcPending = false → adcDone c v m = m)
      ∧ (m.adcPending = true → m.idx + 1 < c.blockN →
        adcDone c v m = { m with adcPending := false, blk := m.blk.set m.idx v, idx := m.idx + 1 })
      ∧ (m.adcPending = true → m.idx + 1 = c.blockN →
        adcDone c v m = { m with
          adcPending := false, blk := m.blk.set m.idx v, idx := c.blockN,
          convEn := false, tickEn := false, tcnt := 0, ready := true })
      ∧ (m.adcPending = true → c.blockN ≤ m.idx → adcDone c v m = { m with adcPending := false })

/-- R145, R336, R33, R144: in a step with an MU cycle out of reset, whatever the host and the SU do in it. A cycle that pulses `adc_start`
puts the next answer into the converter, in the place of any request it still holds (log 4; log 3 where no answer is listed), and any
other cycle only lets it count. While an acquisition
waits for a conversion: a cycle without an answer stores nothing, and a tick in it is missed; an answer that is due is stored, as ADC_BITS bits (log 15), before
the tick of the same cycle is taken, so that the tick starts the next conversion without a miss; and an answer that fills the block
stops the timer before the tick is counted. -/
def Obligations.AnswerBeforeTickInOneCycle : Prop :=
  ∀ (s t : State) (i : MuIn), step s = .next t → (nextTurn s).mu = some i → i.rst = false →
    (t.mu.adcStart = false →
      t.adc = (match s.adc with
        | none => none
        | some j => if j.left ≤ 1 then none else some { left := j.left - 1, reading := j.reading })
      ∧ t.adcDraws = s.adcDraws ∧ t.drawCnt = s.drawCnt)
    ∧ (t.mu.adcStart = true →
      (∀ a ds, s.adcDraws = a :: ds →
        t.adc = a.map (fun x => { left := x.latency, reading := x.reading }) ∧ t.adcDraws = ds ∧ t.drawCnt = s.drawCnt)
      ∧ (s.adcDraws = [] →
        t.adc = (Config.freeAdcAnswer s.drawCnt).map (fun x => { left := x.latency, reading := x.reading })
          ∧ t.adcDraws = [] ∧ t.drawCnt = s.drawCnt + 1))
    ∧ (s.mu.convEn = true → s.mu.tickEn = true → s.mu.adcPending = true →
      (i.stray = none → (∀ j, s.adc = some j → 2 ≤ j.left) →
        t.mu.adcPending = true ∧ t.mu.idx = s.mu.idx ∧ t.mu.blk = s.mu.blk ∧ t.mu.adcStart = false
          ∧ (s.mu.tcnt = s.cfg.timerPeriod - 1 → t.mu.tickMissed = true))
      ∧ (∀ j, s.adc = some j → j.left ≤ 1 →
        (s.mu.idx + 1 ≤ s.cfg.blockN →
          t.mu.idx = s.mu.idx + 1 ∧ t.mu.blk = s.mu.blk.set s.mu.idx (BitVec.ofNat 12 (j.reading.toNat % 2 ^ s.cfg.adcBits))
            ∧ (t.mu.tickMissed = true → s.mu.tickMissed = true))
        ∧ (s.mu.idx + 1 < s.cfg.blockN →
          t.mu.adcPending = decide (s.mu.tcnt = s.cfg.timerPeriod - 1)
            ∧ t.mu.adcStart = decide (s.mu.tcnt = s.cfg.timerPeriod - 1) ∧ t.mu.convEn = true)
        ∧ (s.mu.idx + 1 = s.cfg.blockN →
          t.mu.adcPending = false ∧ t.mu.adcStart = false ∧ t.mu.ready = true ∧ t.mu.convEn = false ∧ t.mu.tickEn = false
            ∧ t.mu.tcnt = 0 ∧ t.adc = none)))

/-! ## The FIR engine -/

/-- R175: from reset, the folded filter's outputs are those of the direct sum over all K coefficients. -/
def Obligations.FoldedFirEqualsDirectConvolution : Prop :=
  ∀ (c : Config) (xs : List Int), c.legal = true → (∀ x ∈ xs, inS16 x) →
    (firRun c xs { tap := List.replicate c.firK 0#16, tapIdx := 0 }).2 = (List.range xs.length).map (directFir c xs)

/-- R173: the exact accumulator fits a signed ACC_W-bit register, for any taps. -/
def Obligations.AccumulatorNeverOverflows : Prop :=
  ∀ (c : Config) (tap : List Half) (j : Nat), c.legal = true →
    -(2 ^ (c.accW - 1) : Int) ≤ firAcc c tap j ∧ firAcc c tap j < 2 ^ (c.accW - 1)

/-- R202, R171, R174: the estimator series of a block. Each reading less ADC_MID goes through FIR_STEP in index order, or past it with FIR_EN
off; with INTEG_EN the series is the saturated running sum, from 0, of the increments f·DT_SCALE shifted right by INT_SHIFT, rounding down;
without it, it is the filtered series. It has N samples, each a signed 16-bit integer, and the filter goes on from its old state. -/
def Obligations.SeriesStaysInSixteenBits : Prop :=
  ∀ (c : Config) (m : MU), c.legal = true → (∀ r ∈ m.blk, r.toNat < 2 ^ c.adcBits) →
    let x : List Int := (List.range c.blockN).map (fun j => ((m.blk.getD j 0#12).toNat : Int) - c.adcMid)
    let f : List Int := if c.firEn = true then (firRun c x { tap := m.tap, tapIdx := m.tapIdx }).2 else x
    let e : List Int := (series c m).2
    e.length = c.blockN ∧ (∀ v ∈ e, inS16 v)
      ∧ (series c m).1 =
        (if c.firEn = true then (firRun c x { tap := m.tap, tapIdx := m.tapIdx }).1 else { tap := m.tap, tapIdx := m.tapIdx })
      ∧ (c.integEn = false → e = f)
      ∧ (c.integEn = true → ∀ j, j < c.blockN →
        e.getD j 0 =
          min (max ((if j = 0 then 0 else e.getD (j - 1) 0) + f.getD j 0 * c.dtScale / 2 ^ c.intShift) (-32768)) 32767)

/-! ## The Estimator -/

/-- R204: PEAK_RAW is the largest absolute value of the series, at most 32768 for a 16-bit series. -/
def Obligations.PeakIsLargestMagnitude : Prop :=
  ∀ e : List Int, e ≠ [] → (∀ v ∈ e, v.natAbs ≤ peakRaw e) ∧ (∃ v ∈ e, v.natAbs = peakRaw e)
    ∧ ((∀ v ∈ e, inS16 v) → peakRaw e ≤ 32768)

/-- R205: clamping the sum of squares after each addition and clamping once at the end give the same value, and the overflow flag is
raised exactly when the exact sum exceeds 2^32 - 1. -/
def Obligations.SumOfSquaresSaturates : Prop :=
  ∀ e : List Int,
    sumSq e = e.foldl (fun a v => min (a + v.natAbs * v.natAbs) 4294967295) 0
      ∧ (sumSqOvf e = true ↔ 4294967295 < (e.map (fun v => v.natAbs * v.natAbs)).sum)

/-- R207: the raw RMS is the root of the mean, and the root is exactly the largest r with r·r ≤ msq, an integer up to 65535, for every
msq below 2^32 (every mean is below 2^32). -/
def Obligations.RootIsExactFloor : Prop :=
  (∀ m : Nat, m < 2 ^ 32 → isqrt m * isqrt m ≤ m ∧ m < (isqrt m + 1) * (isqrt m + 1) ∧ isqrt m ≤ 65535)
    ∧ ∀ (c : Config) (e : List Int), rmsRaw c e = isqrt (sumSq e / c.blockN) ∧ sumSq e / c.blockN < 2 ^ 32

/-- R210, R214: the crossings of a series are its consecutive pairs of different sign (0 is non-negative): at most its length less one,
exactly that when the signs alternate, and none when all signs agree. -/
def Obligations.ZeroCrossingCounts : Prop :=
  ∀ e : List Int,
    zeroCrossings e = ((List.range (e.length - 1)).filter (fun j => decide (e.getD j 0 < 0) != decide (e.getD (j + 1) 0 < 0))).length
      ∧ zeroCrossings e ≤ e.length - 1
      ∧ ((∀ j, j + 1 < e.length → (e.getD j 0 < 0 ↔ ¬ e.getD (j + 1) 0 < 0)) → zeroCrossings e = e.length - 1)
      ∧ ((∀ j, j + 1 < e.length → (e.getD j 0 < 0 ↔ e.getD (j + 1) 0 < 0)) → zeroCrossings e = 0)

/-- R213: an average of the smoothing buffer needs no clamp, and lies between the smallest and the largest of the slots it is over. -/
def Obligations.SmoothingAverageStaysInRange : Prop :=
  ∀ (buf : List Half) (n lo hi : Nat), 1 ≤ n → (∀ k, k < n → lo ≤ (buf.getD k 0#16).toNat ∧ (buf.getD k 0#16).toNat ≤ hi) →
    lo ≤ averageOf buf n ∧ averageOf buf n ≤ hi

/-- R212, R208, R211, R213 with SMOOTH_LEN = 0: what PROC_DONE commits, in terms of the estimator series, and that it changes
nothing else. -/
def Obligations.ProcDoneCommitsUnsmoothed : Prop :=
  ∀ (c : Config) (m : MU), c.legal = true → c.smoothLen = 0 →
    let f := (series c m).1
    let e := (series c m).2
    procDone c m = { m with
      tap := f.tap, tapIdx := f.tapIdx
      resPeak := BitVec.ofNat 16 (min (peakRaw e * c.scaleNum / c.scaleDen) 65535)
      resRms := BitVec.ofNat 16 (min (isqrt (sumSq e / c.blockN) * c.scaleNum / c.scaleDen) 65535)
      resFreq := BitVec.ofNat 16 (min (zeroCrossings e * c.fsHz * 10 / (2 * c.blockN)) 65535)
      resValid := true, procBusy := false, sqOvf := m.sqOvf || sumSqOvf e }

/-- R212, R213: with smoothing on, PROC_DONE writes the scaled values into the slot `ma_idx`, advances the index and the count, and commits
the averages over the filled slots; the frequency is not smoothed. It commits the filter's new state, RES_VALID, PROC_BUSY and SQ_OVF
too, and changes nothing else. -/
def Obligations.ProcDoneSmoothsPeakAndRms : Prop :=
  ∀ (c : Config) (m : MU), c.legal = true → 1 ≤ c.smoothLen → m.maIdx < m.maPeak.length → m.maIdx < m.maRms.length →
    let f := (series c m).1
    let e := (series c m).2
    let t := procDone c m
    let n := min (m.maCnt + 1) c.smoothLen
    (t.maPeak.getD m.maIdx 0#16).toNat = min (peakRaw e * c.scaleNum / c.scaleDen) 65535
      ∧ (t.maRms.getD m.maIdx 0#16).toNat = min (isqrt (sumSq e / c.blockN) * c.scaleNum / c.scaleDen) 65535
      ∧ (∀ k, k ≠ m.maIdx → t.maPeak.getD k 0#16 = m.maPeak.getD k 0#16 ∧ t.maRms.getD k 0#16 = m.maRms.getD k 0#16)
      ∧ t.maPeak.length = m.maPeak.length ∧ t.maRms.length = m.maRms.length
      ∧ t.resPeak.toNat = ((List.range n).map (fun k => (t.maPeak.getD k 0#16).toNat)).sum / n
      ∧ t.resRms.toNat = ((List.range n).map (fun k => (t.maRms.getD k 0#16).toNat)).sum / n
      ∧ t = { m with
          tap := f.tap, tapIdx := f.tapIdx
          maPeak := t.maPeak, maRms := t.maRms, maIdx := (m.maIdx + 1) % c.smoothLen, maCnt := n
          resPeak := t.resPeak, resRms := t.resRms
          resFreq := BitVec.ofNat 16 (min (zeroCrossings e * c.fsHz * 10 / (2 * c.blockN)) 65535)
          resValid := true, procBusy := false, sqOvf := m.sqOvf || sumSqOvf e }

/-- R214: a block of one sample has frequency 0. -/
def Obligations.SingleSampleBlockHasFrequencyZero : Prop :=
  ∀ (c : Config) (m : MU), c.blockN = 1 → (procDone c m).resFreq = 0#16

/-- R201, R377: PROC_DONE is performed in the PROC_LATENCY-th cycle after the one that accepted PROCESS, and the cycles before it only
count down. -/
def Obligations.ProcDoneAfterProcLatency : Prop :=
  ∀ (c : Config) (m : MU), 1 ≤ c.procLatency → m.procBusy = true → m.procCnt = c.procLatency →
    (∀ n : Nat, n < c.procLatency → procRun c n m = { m with procCnt := c.procLatency - n })
      ∧ procRun c c.procLatency m = procDone c { m with procCnt := 0 }

/-- R251, R176, R84: the internal steps keep to their own fields: ADC_DONE and TIMER_COUNT touch neither the filter, the results nor the
transmitter, PROC_DONE touches neither the sampler nor a frame already latched. -/
def Obligations.InternalStepsKeepToTheirFields : Prop :=
  ∀ (c : Config) (v : Reading) (m : MU),
    (∃ te tc ce ap ix bl rd, adcDone c v m = { m with
        tickEn := te, tcnt := tc, convEn := ce, adcPending := ap, idx := ix, blk := bl, ready := rd })
      ∧ (∃ tc ap st tm, timerCount c m = { m with tcnt := tc, adcPending := ap, adcStart := st, tickMissed := tm })
      ∧ (∃ tp ti pb pc rp rr rf rv mp mr mi mc so, procCount c m = { m with
        tap := tp, tapIdx := ti, procBusy := pb, procCnt := pc, resPeak := rp, resRms := rr, resFreq := rf, resValid := rv,
        maPeak := mp, maRms := mr, maIdx := mi, maCnt := mc, sqOvf := so })

/-! ## The whole machine -/

/-- R149, R84, R57, R82 and the ranges of R35 to R40: the invariant is kept by every step. -/
def Obligations.StepKeepsInvariant : Prop :=
  ∀ s t : State, Inv s → step s = .next t → Inv t

/-- R55, R56: the value of every MU field and of every SU field right after reset, in every configuration. -/
def Obligations.ResetValuesAreThoseOfTheSpec : Prop :=
  ∀ c : Config,
    let m := (State.resetOf c).mu
    let u := (State.resetOf c).su
    (m.tickEn = false ∧ m.convEn = false ∧ m.adcPending = false ∧ m.ready = false ∧ m.tcnt = 0 ∧ m.idx = 0
      ∧ (∀ j, m.blk.getD j 0#12 = 0#12) ∧ m.blk.length = c.blockN ∧ (∀ k, m.tap.getD k 0#16 = 0#16) ∧ m.tap.length = c.firK
      ∧ m.tapIdx = 0 ∧ m.procBusy = false ∧ m.resValid = false ∧ m.procCnt = 0
      ∧ m.resPeak = 0#16 ∧ m.resRms = 0#16 ∧ m.resFreq = 0#16
      ∧ (∀ k, m.maPeak.getD k 0#16 = 0#16 ∧ m.maRms.getD k 0#16 = 0#16)
      ∧ m.maPeak.length = c.smoothLen ∧ m.maRms.length = c.smoothLen ∧ m.maIdx = 0 ∧ m.maCnt = 0
      ∧ m.cmdErr = false ∧ m.tickMissed = false ∧ m.sqOvf = false ∧ m.txState = .idle ∧ m.txShift = 0#64
      ∧ m.txBitcnt = 0 ∧ m.txCyc = 0 ∧ m.csN = true ∧ m.sclk = false ∧ m.mosi = false ∧ m.adcStart = false)
    ∧ (u.rxState = .idle ∧ u.rxBitcnt = 0 ∧ u.rxShift = 0#8 ∧ u.rxWcnt = 0 ∧ (∀ k, u.rxBuf.getD k 0#8 = 0#8)
      ∧ u.rxBuf.length = c.rxMax ∧ u.rxLen = 0 ∧ u.dispValid = false
      ∧ u.dispPeak = 0#16 ∧ u.dispRms = 0#16 ∧ u.dispFreq = 0#16)

/-- R55, R56: the invariant holds right after reset, in every legal configuration and in the one of `State.reset` (log 2). -/
def Obligations.ResetHasInvariant : Prop :=
  (∀ c : Config, c.legal = true → Inv (State.resetOf c)) ∧ Inv State.reset

/-- R330, R346, R170: a step never faults; it answers a next state in every legal configuration and refuses every other (log 1). -/
def Obligations.StepIsTotalOnLegalConfigurations : Prop :=
  ∀ s : State, (s.cfg.legal = true → ∃ t, step s = .next t) ∧ (s.cfg.legal = false → step s = .refused .illegalConfig)

/-- R33: an MU cycle with a host access runs the decoded instruction at the state at the start of the cycle, then the cycle's other
positions; a frame turn runs the decoded frame. The turn and the host's operation are taken first (log 5, log 6). -/
def Obligations.StepRunsDecodedInstruction : Prop :=
  (∀ (s s1 : State) (i : MuIn) (ts : List Turn) (t : BusWord) (hs : List HostOp),
      s.cfg.legal = true → s.turns = { mu := some i, su := none } :: ts → i.rst = false → s.host = .access t :: hs →
      exec (decodeBus t) (beginMuCycle { s with turns := ts, host := hs }) = .next s1 →
      step s = .next (finishMuCycle i (beginMuCycle { s with turns := ts, host := hs }).mu s1))
    ∧ (∀ (s : State) (ts : List Turn) (w : FrameWord),
      s.cfg.legal = true → s.turns = { mu := none, su := some (.frame w) } :: ts →
      step s = exec (decodeFrame w) { s with turns := ts })

/-- R33, R315, R86: a sticky bit that an internal step sets in the cycle of the STATUS write that clears it stays set: TICK_MISSED by a
tick that finds a conversion pending and not answered in this cycle, SQ_OVF by a PROC_DONE whose sum of squares overflows. -/
def Obligations.InternalSetWinsOverClear : Prop :=
  ∀ (s : State) (i : MuIn) (d : Word),
    s.cfg.legal = true → (nextTurn s).mu = some i → i.rst = false → nextHostOp s = .access (wrWord 0x04#6 d) →
    ∃ t, step s = .next t
      ∧ (s.mu.tickEn = true → s.mu.convEn = true → s.mu.tcnt = s.cfg.timerPeriod - 1 → s.mu.adcPending = true → i.stray = none →
        (∀ j, s.adc = some j → 2 ≤ j.left) → t.mu.tickMissed = true)
      ∧ (s.mu.procBusy = true → s.mu.procCnt ≤ 1 → s.mu.adcPending = false → sumSqOvf (series s.cfg s.mu).2 = true →
        t.mu.sqOvf = true)

/-- R254, R201: in the cycle that accepts SEND the transmitter does not advance, and in the cycle that accepts PROCESS the processing
engine does not count. -/
def Obligations.AcceptingCycleDoesNotCount : Prop :=
  ∀ (s : State) (ts : List Turn) (hs : List HostOp), s.cfg.legal = true → s.turns = { mu := some {}, su := none } :: ts →
    (s.host = .access scriptSend :: hs → s.mu.txState = .idle →
      ∃ t, step s = .next t ∧ t.mu.txState = .pre ∧ t.mu.txCyc = 0 ∧ t.mu.csN = false ∧ t.link = s.link ++ [.csFall])
    ∧ (s.host = .access scriptProcess :: hs → s.mu.ready = true → s.mu.procBusy = false → s.mu.adcPending = false →
      ∃ t, step s = .next t ∧ t.mu.procBusy = true ∧ t.mu.procCnt = s.cfg.procLatency ∧ t.mu.ready = false
        ∧ t.mu.resPeak = s.mu.resPeak ∧ t.mu.resRms = s.mu.resRms ∧ t.mu.resFreq = s.mu.resFreq)

/-- R333: a sticky bit that is set stays set through a step, unless the host writes a 1 to it in STATUS in this turn or the MU is
reset. -/
def Obligations.StickyBitsClearOnlyByHostOrReset : Prop :=
  ∀ s t : State, step s = .next t → ¬ muInReset s →
    (s.mu.cmdErr = true → t.mu.cmdErr = false →
      ∃ x d, hostAccesses s x ∧ decodeBus x = .wrStatus d ∧ d.getLsbD 8 = true)
    ∧ (s.mu.tickMissed = true → t.mu.tickMissed = false →
      ∃ x d, hostAccesses s x ∧ decodeBus x = .wrStatus d ∧ d.getLsbD 9 = true)
    ∧ (s.mu.sqOvf = true → t.mu.sqOvf = false →
      ∃ x d, hostAccesses s x ∧ decodeBus x = .wrStatus d ∧ d.getLsbD 10 = true)

/-- R47: `ready` is set only by the ADC_DONE that stores sample N-1, and cleared only by an accepted START, an accepted PROCESS and
reset. -/
def Obligations.ReadyChangesOnlyAsStated : Prop :=
  ∀ s t : State, Inv s → step s = .next t →
    (s.mu.ready = false → t.mu.ready = true →
      s.mu.adcPending = true ∧ s.mu.idx + 1 = s.cfg.blockN ∧ t.mu.idx = s.cfg.blockN ∧ t.mu.convEn = false)
    ∧ (s.mu.ready = true → t.mu.ready = false →
      muInReset s ∨ ∃ x hi, hostAccesses s x
        ∧ (decodeBus x = .start hi ∧ s.mu.convEn = false ∧ s.mu.procBusy = false
          ∨ decodeBus x = .process hi ∧ s.mu.ready = true ∧ s.mu.procBusy = false))

/-- R176, R361, R49: the taps, the smoothing state and the results change in a step only when the processing engine performs PROC_DONE
in it or the MU is reset. -/
def Obligations.FilterAndResultsChangeOnlyAtProcDone : Prop :=
  ∀ s t : State, step s = .next t → ¬ muInReset s → ¬ (s.mu.procBusy = true ∧ s.mu.procCnt ≤ 1) →
    t.mu.tap = s.mu.tap ∧ t.mu.tapIdx = s.mu.tapIdx ∧ t.mu.maPeak = s.mu.maPeak ∧ t.mu.maRms = s.mu.maRms
      ∧ t.mu.maIdx = s.mu.maIdx ∧ t.mu.maCnt = s.mu.maCnt ∧ t.mu.resPeak = s.mu.resPeak ∧ t.mu.resRms = s.mu.resRms
      ∧ t.mu.resFreq = s.mu.resFreq ∧ t.mu.resValid = s.mu.resValid

/-- R6: no step changes the build-time parameters. -/
def Obligations.ParametersNeverChange : Prop :=
  ∀ s t : State, step s = .next t → t.cfg = s.cfg

/-- R257, R343, R87, R281, R293: the MU cannot learn anything of the SU: two states that differ only in the SU and in what is on the link
have next states whose MU, converter and host are the same; a turn in which a unit's clock does not tick leaves that unit as it
was. In any turn the MU only appends to the link, and what it would append were it alone (`es`); then an observing SU takes exactly the
oldest event, an SU driven otherwise takes the event it is given, and a cycle without an event changes nothing but ends `disp_valid`.
The link as a queue is log 8; that in a turn of both clocks the MU comes first, so that the SU can observe an event made in the same
turn, is log 25. -/
def Obligations.UnitsShareNothingButTheLink : Prop :=
  (∀ (s t t' : State) (u : SU) (l : List LinkEvent), step s = .next t → step { s with su := u, link := l } = .next t' →
    t'.mu = t.mu ∧ t'.adc = t.adc ∧ t'.host = t.host ∧ t'.adcDraws = t.adcDraws ∧ t'.drawCnt = t.drawCnt)
  ∧ (∀ s t : State, step s = .next t →
      ((nextTurn s).mu = none → t.mu = s.mu ∧ t.adc = s.adc ∧ t.host = s.host)
      ∧ ∃ es : List LinkEvent, ((nextTurn s).mu = none → es = [])
        ∧ (∃ t0, step { s with turns := { mu := (nextTurn s).mu, su := none } :: s.turns.tail } = .next t0 ∧ t0.link = s.link ++ es)
        ∧ ((nextTurn s).su = none → t.su = s.su ∧ t.link = s.link ++ es)
        ∧ ((nextTurn s).su = some .idle → t.su = { s.su with dispValid := false } ∧ t.link = s.link ++ es)
        ∧ ((nextTurn s).su = some .observe → s.link ++ es = [] → t.su = { s.su with dispValid := false } ∧ t.link = [])
        ∧ (∀ e l, (nextTurn s).su = some .observe → s.link ++ es = e :: l → t.su = suEvent s.cfg s.su e ∧ t.link = l)
        ∧ (∀ e, (nextTurn s).su = some (.event e) → t.su = suEvent s.cfg s.su e ∧ t.link = s.link ++ es))

/-- R360, R363, R364: a cycle with the MU in reset puts every MU field at its reset value, drops the converter's request, puts CS_RISE on
the link if `cs_n` was 0, answers an access presented in it (a wait's read too) with rdata 0 and err 0 without performing it, and leaves
the SU alone. That the access is used up, and that a wait takes the 0 for the value read, is log 22. -/
def Obligations.MuResetCycle : Prop :=
  ∀ (s : State) (i : MuIn) (ts : List Turn),
    s.cfg.legal = true → s.turns = { mu := some i, su := none } :: ts → i.rst = true →
    step s = .next { s with
      mu := { MU.reset s.cfg with busResp := match s.host with
        | [] => none
        | .idle :: _ => none
        | .access _ :: _ => some { rdata := some 0#32, err := false }
        | .wait _ _ _ :: _ => some { rdata := some 0#32, err := false } }
      adc := none, link := s.link ++ (if s.mu.csN = true then [] else [.csRise])
      host := match s.host with
        | [] => []
        | .idle :: hs => hs
        | .access _ :: hs => hs
        | .wait a mask v :: hs => if v = 0#32 then hs else .wait a mask v :: hs
      turns := ts }

/-- R362, R367: a cycle with the SU in reset puts every SU field at its reset value and leaves the MU alone. While the MU does not transmit,
the link loses only the number of events that the turn's input names (log 9). While it transmits, the frame in transmission is lost too,
and no other: its events are off the wire from its CS_FALL on, and nothing is off where that CS_FALL is no longer on the wire. The rest of
that frame then dispatches nothing: with whole frames before it on the wire the SU dispatches what those dispatch. -/
def Obligations.SuResetCycle : Prop :=
  ∀ (s : State) (ts : List Turn) (lost : Nat), s.cfg.legal = true →
    s.turns = { mu := none, su := some (.reset lost) } :: ts →
    ∃ l : List LinkEvent, step s = .next { s with su := SU.reset s.cfg, link := l, turns := ts }
      ∧ (s.mu.txState = .idle → l = s.link.drop lost)
      ∧ (s.mu.txState ≠ .idle →
        (∀ (l0 : List LinkEvent) (bits : List Bool), s.link = l0 ++ (LinkEvent.csFall :: bits.map LinkEvent.bit) → l = l0.drop lost)
        ∧ (∀ l0 l1 : List LinkEvent, s.link = l0 ++ (LinkEvent.csRise :: l1) → .csFall ∉ l1 → l = s.link.drop lost)
        ∧ (.csFall ∉ s.link → l = s.link.drop lost)
        ∧ (∀ bits : List Bool, .csFall ∉ l →
          dispatches s.cfg (l ++ (bits.map LinkEvent.bit ++ [LinkEvent.csRise])) (SU.reset s.cfg) = [])
        ∧ ∀ (l0 l1 : List LinkEvent) (bits : List Bool), l = l0 ++ (LinkEvent.csRise :: l1) → .csFall ∉ l1 →
          dispatches s.cfg (l ++ (bits.map LinkEvent.bit ++ [LinkEvent.csRise])) (SU.reset s.cfg)
            = dispatches s.cfg l (SU.reset s.cfg))

/-- R365: nothing happens until the host acts. The MU is quiet after reset (no acquisition, conversion, processing or transfer), and
in a step out of reset in which no START, PROCESS or SEND is accepted a quiet MU stays so: nothing changes in it but the bus response
and the sticky bits (which the access of the cycle may set or clear), `adc_start` is 0, no conversion is drawn, and the MU puts nothing on
the link. -/
def Obligations.QuietMuStaysQuietWithoutCommand : Prop :=
  (∀ c : Config, Quiet (State.resetOf c).mu)
  ∧ ∀ s t : State, step s = .next t → Quiet s.mu → ¬ muInReset s →
    (∀ x, hostAccesses s x → ¬ commandAccepted s.mu (decodeBus x)) →
    Quiet t.mu
      ∧ t.mu = { s.mu with adcStart := t.mu.adcStart, busResp := t.mu.busResp, cmdErr := t.mu.cmdErr, tickMissed := t.mu.tickMissed,
                           sqOvf := t.mu.sqOvf }
      ∧ ((nextTurn s).mu ≠ none → t.mu.adcStart = false)
      ∧ t.adcDraws = s.adcDraws ∧ t.drawCnt = s.drawCnt
      ∧ (∃ k, t.link = s.link.drop k) ∧ ((nextTurn s).su = none → t.link = s.link)

/-- R107, R150: a host that waits presents its read again until the condition holds for the value read; the host's operation list moves
on only then. The form of the list is log 6. -/
def Obligations.WaitRepeatsUntilConditionHolds : Prop :=
  ∀ (s : State) (ts : List Turn) (a : Offset) (mask v : Word) (hs : List HostOp),
    s.cfg.legal = true → a.extractLsb' 0 2 = 0#2 → s.turns = { mu := some {}, su := none } :: ts → s.host = .wait a mask v :: hs →
    ∃ t, step s = .next t ∧ t.mu.busResp = some { rdata := some (readVal s.mu a), err := false }
      ∧ t.host = if readVal s.mu a &&& mask = v then hs else s.host
end

