-- ==== Sys2Proof/Laws/State.lean ====
section
/-! SUPPORT. For each update of State, MU and SU, one simp lemma for each field: what it holds afterwards. -/

namespace Sys2Proof.Machine

/-! `State.onMu` -/

@[simp] theorem State.onMu_cfg (f : MU → MU) (s : State) : (s.onMu f).cfg = s.cfg := rfl
@[simp] theorem State.onMu_mu (f : MU → MU) (s : State) : (s.onMu f).mu = f s.mu := rfl
@[simp] theorem State.onMu_su (f : MU → MU) (s : State) : (s.onMu f).su = s.su := rfl
@[simp] theorem State.onMu_adc (f : MU → MU) (s : State) : (s.onMu f).adc = s.adc := rfl
@[simp] theorem State.onMu_link (f : MU → MU) (s : State) : (s.onMu f).link = s.link := rfl
@[simp] theorem State.onMu_host (f : MU → MU) (s : State) : (s.onMu f).host = s.host := rfl
@[simp] theorem State.onMu_turns (f : MU → MU) (s : State) : (s.onMu f).turns = s.turns := rfl
@[simp] theorem State.onMu_adcDraws (f : MU → MU) (s : State) : (s.onMu f).adcDraws = s.adcDraws := rfl
@[simp] theorem State.onMu_drawCnt (f : MU → MU) (s : State) : (s.onMu f).drawCnt = s.drawCnt := rfl

/-! `respondRead` -/

@[simp] theorem respondRead_cfg (v : Word) (s : State) : (respondRead v s).cfg = s.cfg := rfl
@[simp] theorem respondRead_mu (v : Word) (s : State) : (respondRead v s).mu = { s.mu with busResp := some { rdata := some v, err := false } } := rfl
@[simp] theorem respondRead_su (v : Word) (s : State) : (respondRead v s).su = s.su := rfl
@[simp] theorem respondRead_adc (v : Word) (s : State) : (respondRead v s).adc = s.adc := rfl
@[simp] theorem respondRead_link (v : Word) (s : State) : (respondRead v s).link = s.link := rfl
@[simp] theorem respondRead_host (v : Word) (s : State) : (respondRead v s).host = s.host := rfl
@[simp] theorem respondRead_turns (v : Word) (s : State) : (respondRead v s).turns = s.turns := rfl
@[simp] theorem respondRead_adcDraws (v : Word) (s : State) : (respondRead v s).adcDraws = s.adcDraws := rfl
@[simp] theorem respondRead_drawCnt (v : Word) (s : State) : (respondRead v s).drawCnt = s.drawCnt := rfl

/-! `respondWrite` -/

@[simp] theorem respondWrite_cfg (s : State) : (respondWrite s).cfg = s.cfg := rfl
@[simp] theorem respondWrite_mu (s : State) : (respondWrite s).mu = { s.mu with busResp := some { rdata := none, err := false } } := rfl
@[simp] theorem respondWrite_su (s : State) : (respondWrite s).su = s.su := rfl
@[simp] theorem respondWrite_adc (s : State) : (respondWrite s).adc = s.adc := rfl
@[simp] theorem respondWrite_link (s : State) : (respondWrite s).link = s.link := rfl
@[simp] theorem respondWrite_host (s : State) : (respondWrite s).host = s.host := rfl
@[simp] theorem respondWrite_turns (s : State) : (respondWrite s).turns = s.turns := rfl
@[simp] theorem respondWrite_adcDraws (s : State) : (respondWrite s).adcDraws = s.adcDraws := rfl
@[simp] theorem respondWrite_drawCnt (s : State) : (respondWrite s).drawCnt = s.drawCnt := rfl

/-! `busError` -/

@[simp] theorem busError_cfg (s : State) : (busError s).cfg = s.cfg := rfl
@[simp] theorem busError_mu (s : State) : (busError s).mu = { s.mu with busResp := some { rdata := some 0#32, err := true } } := rfl
@[simp] theorem busError_su (s : State) : (busError s).su = s.su := rfl
@[simp] theorem busError_adc (s : State) : (busError s).adc = s.adc := rfl
@[simp] theorem busError_link (s : State) : (busError s).link = s.link := rfl
@[simp] theorem busError_host (s : State) : (busError s).host = s.host := rfl
@[simp] theorem busError_turns (s : State) : (busError s).turns = s.turns := rfl
@[simp] theorem busError_adcDraws (s : State) : (busError s).adcDraws = s.adcDraws := rfl
@[simp] theorem busError_drawCnt (s : State) : (busError s).drawCnt = s.drawCnt := rfl

/-! `readRegister` -/

@[simp] theorem readRegister_cfg (a : Offset) (s : State) : (readRegister a s).cfg = s.cfg := rfl
@[simp] theorem readRegister_mu (a : Offset) (s : State) : (readRegister a s).mu = { s.mu with busResp := some { rdata := some (readVal s.mu a), err := false } } := rfl
@[simp] theorem readRegister_su (a : Offset) (s : State) : (readRegister a s).su = s.su := rfl
@[simp] theorem readRegister_adc (a : Offset) (s : State) : (readRegister a s).adc = s.adc := rfl
@[simp] theorem readRegister_link (a : Offset) (s : State) : (readRegister a s).link = s.link := rfl
@[simp] theorem readRegister_host (a : Offset) (s : State) : (readRegister a s).host = s.host := rfl
@[simp] theorem readRegister_turns (a : Offset) (s : State) : (readRegister a s).turns = s.turns := rfl
@[simp] theorem readRegister_adcDraws (a : Offset) (s : State) : (readRegister a s).adcDraws = s.adcDraws := rfl
@[simp] theorem readRegister_drawCnt (a : Offset) (s : State) : (readRegister a s).drawCnt = s.drawCnt := rfl

/-! `sendFrame` -/

@[simp] theorem sendFrame_cfg (s : State) : (sendFrame s).cfg = s.cfg := rfl
@[simp] theorem sendFrame_mu (s : State) : (sendFrame s).mu = (muSend s.mu).1 := rfl
@[simp] theorem sendFrame_su (s : State) : (sendFrame s).su = s.su := rfl
@[simp] theorem sendFrame_adc (s : State) : (sendFrame s).adc = s.adc := rfl
@[simp] theorem sendFrame_link (s : State) : (sendFrame s).link = s.link ++ (muSend s.mu).2 := rfl
@[simp] theorem sendFrame_host (s : State) : (sendFrame s).host = s.host := rfl
@[simp] theorem sendFrame_turns (s : State) : (sendFrame s).turns = s.turns := rfl
@[simp] theorem sendFrame_adcDraws (s : State) : (sendFrame s).adcDraws = s.adcDraws := rfl
@[simp] theorem sendFrame_drawCnt (s : State) : (sendFrame s).drawCnt = s.drawCnt := rfl

/-! `takeFrame` -/

@[simp] theorem takeFrame_cfg (w : FrameWord) (s : State) : (takeFrame w s).cfg = s.cfg := by simp only [takeFrame]
@[simp] theorem takeFrame_mu (w : FrameWord) (s : State) : (takeFrame w s).mu = s.mu := by simp only [takeFrame]
@[simp] theorem takeFrame_su (w : FrameWord) (s : State) : (takeFrame w s).su = suEvents s.cfg (frameEvents w) s.su := by simp only [takeFrame]
@[simp] theorem takeFrame_adc (w : FrameWord) (s : State) : (takeFrame w s).adc = s.adc := by simp only [takeFrame]
@[simp] theorem takeFrame_link (w : FrameWord) (s : State) : (takeFrame w s).link = s.link := by simp only [takeFrame]
@[simp] theorem takeFrame_host (w : FrameWord) (s : State) : (takeFrame w s).host = s.host := by simp only [takeFrame]
@[simp] theorem takeFrame_turns (w : FrameWord) (s : State) : (takeFrame w s).turns = s.turns := by simp only [takeFrame]
@[simp] theorem takeFrame_adcDraws (w : FrameWord) (s : State) : (takeFrame w s).adcDraws = s.adcDraws := by simp only [takeFrame]
@[simp] theorem takeFrame_drawCnt (w : FrameWord) (s : State) : (takeFrame w s).drawCnt = s.drawCnt := by simp only [takeFrame]

/-! `beginMuCycle` -/

@[simp] theorem beginMuCycle_cfg (s : State) : (beginMuCycle s).cfg = s.cfg := rfl
@[simp] theorem beginMuCycle_mu (s : State) : (beginMuCycle s).mu = { s.mu with adcStart := false, busResp := none } := rfl
@[simp] theorem beginMuCycle_su (s : State) : (beginMuCycle s).su = s.su := rfl
@[simp] theorem beginMuCycle_adc (s : State) : (beginMuCycle s).adc = s.adc := rfl
@[simp] theorem beginMuCycle_link (s : State) : (beginMuCycle s).link = s.link := rfl
@[simp] theorem beginMuCycle_host (s : State) : (beginMuCycle s).host = s.host := rfl
@[simp] theorem beginMuCycle_turns (s : State) : (beginMuCycle s).turns = s.turns := rfl
@[simp] theorem beginMuCycle_adcDraws (s : State) : (beginMuCycle s).adcDraws = s.adcDraws := rfl
@[simp] theorem beginMuCycle_drawCnt (s : State) : (beginMuCycle s).drawCnt = s.drawCnt := rfl

/-! `popHost` -/

@[simp] theorem popHost_cfg (s : State) : (popHost s).cfg = s.cfg := rfl
@[simp] theorem popHost_mu (s : State) : (popHost s).mu = s.mu := rfl
@[simp] theorem popHost_su (s : State) : (popHost s).su = s.su := rfl
@[simp] theorem popHost_adc (s : State) : (popHost s).adc = s.adc := rfl
@[simp] theorem popHost_link (s : State) : (popHost s).link = s.link := rfl
@[simp] theorem popHost_host (s : State) : (popHost s).host = s.host.tail := rfl
@[simp] theorem popHost_turns (s : State) : (popHost s).turns = s.turns := rfl
@[simp] theorem popHost_adcDraws (s : State) : (popHost s).adcDraws = s.adcDraws := rfl
@[simp] theorem popHost_drawCnt (s : State) : (popHost s).drawCnt = s.drawCnt := rfl

/-! `popTurn` -/

@[simp] theorem popTurn_cfg (s : State) : (popTurn s).cfg = s.cfg := rfl
@[simp] theorem popTurn_mu (s : State) : (popTurn s).mu = s.mu := rfl
@[simp] theorem popTurn_su (s : State) : (popTurn s).su = s.su := rfl
@[simp] theorem popTurn_adc (s : State) : (popTurn s).adc = s.adc := rfl
@[simp] theorem popTurn_link (s : State) : (popTurn s).link = s.link := rfl
@[simp] theorem popTurn_host (s : State) : (popTurn s).host = s.host := rfl
@[simp] theorem popTurn_turns (s : State) : (popTurn s).turns = s.turns.tail := rfl
@[simp] theorem popTurn_adcDraws (s : State) : (popTurn s).adcDraws = s.adcDraws := rfl
@[simp] theorem popTurn_drawCnt (s : State) : (popTurn s).drawCnt = s.drawCnt := rfl

/-! `muResetCycle` -/

@[simp] theorem muResetCycle_cfg (op : HostOp) (s : State) : (muResetCycle op s).cfg = s.cfg := rfl
@[simp] theorem muResetCycle_mu (op : HostOp) (s : State) : (muResetCycle op s).mu = { MU.reset s.cfg with busResp := resetResp op } := rfl
@[simp] theorem muResetCycle_su (op : HostOp) (s : State) : (muResetCycle op s).su = s.su := rfl
@[simp] theorem muResetCycle_adc (op : HostOp) (s : State) : (muResetCycle op s).adc = none := rfl
@[simp] theorem muResetCycle_link (op : HostOp) (s : State) : (muResetCycle op s).link = s.link ++ resetEvents s.mu := rfl
@[simp] theorem muResetCycle_host (op : HostOp) (s : State) : (muResetCycle op s).host = s.host := rfl
@[simp] theorem muResetCycle_turns (op : HostOp) (s : State) : (muResetCycle op s).turns = s.turns := rfl
@[simp] theorem muResetCycle_adcDraws (op : HostOp) (s : State) : (muResetCycle op s).adcDraws = s.adcDraws := rfl
@[simp] theorem muResetCycle_drawCnt (op : HostOp) (s : State) : (muResetCycle op s).drawCnt = s.drawCnt := rfl

/-! `suIdle` -/

@[simp] theorem suIdle_cfg (s : State) : (suIdle s).cfg = s.cfg := rfl
@[simp] theorem suIdle_mu (s : State) : (suIdle s).mu = s.mu := rfl
@[simp] theorem suIdle_su (s : State) : (suIdle s).su = suCycleStart s.su := rfl
@[simp] theorem suIdle_adc (s : State) : (suIdle s).adc = s.adc := rfl
@[simp] theorem suIdle_link (s : State) : (suIdle s).link = s.link := rfl
@[simp] theorem suIdle_host (s : State) : (suIdle s).host = s.host := rfl
@[simp] theorem suIdle_turns (s : State) : (suIdle s).turns = s.turns := rfl
@[simp] theorem suIdle_adcDraws (s : State) : (suIdle s).adcDraws = s.adcDraws := rfl
@[simp] theorem suIdle_drawCnt (s : State) : (suIdle s).drawCnt = s.drawCnt := rfl

/-! `suResetCycle` -/

@[simp] theorem suResetCycle_cfg (n : Nat) (s : State) : (suResetCycle n s).cfg = s.cfg := rfl
@[simp] theorem suResetCycle_mu (n : Nat) (s : State) : (suResetCycle n s).mu = s.mu := rfl
@[simp] theorem suResetCycle_su (n : Nat) (s : State) : (suResetCycle n s).su = SU.reset s.cfg := rfl
@[simp] theorem suResetCycle_adc (n : Nat) (s : State) : (suResetCycle n s).adc = s.adc := rfl
@[simp] theorem suResetCycle_link (n : Nat) (s : State) : (suResetCycle n s).link = (linkAfterSuReset s).drop n := rfl
@[simp] theorem suResetCycle_host (n : Nat) (s : State) : (suResetCycle n s).host = s.host := rfl
@[simp] theorem suResetCycle_turns (n : Nat) (s : State) : (suResetCycle n s).turns = s.turns := rfl
@[simp] theorem suResetCycle_adcDraws (n : Nat) (s : State) : (suResetCycle n s).adcDraws = s.adcDraws := rfl
@[simp] theorem suResetCycle_drawCnt (n : Nat) (s : State) : (suResetCycle n s).drawCnt = s.drawCnt := rfl

/-! `placeBus` -/

@[simp] theorem placeBus_cfg (t : BusWord) (s : State) : (placeBus t s).cfg = s.cfg := rfl
@[simp] theorem placeBus_mu (t : BusWord) (s : State) : (placeBus t s).mu = s.mu := rfl
@[simp] theorem placeBus_su (t : BusWord) (s : State) : (placeBus t s).su = s.su := rfl
@[simp] theorem placeBus_adc (t : BusWord) (s : State) : (placeBus t s).adc = s.adc := rfl
@[simp] theorem placeBus_link (t : BusWord) (s : State) : (placeBus t s).link = s.link := rfl
@[simp] theorem placeBus_host (t : BusWord) (s : State) : (placeBus t s).host = .access t :: s.host := rfl
@[simp] theorem placeBus_turns (t : BusWord) (s : State) : (placeBus t s).turns = { mu := some {}, su := none } :: s.turns := rfl
@[simp] theorem placeBus_adcDraws (t : BusWord) (s : State) : (placeBus t s).adcDraws = s.adcDraws := rfl
@[simp] theorem placeBus_drawCnt (t : BusWord) (s : State) : (placeBus t s).drawCnt = s.drawCnt := rfl

/-! `placeFrame` -/

@[simp] theorem placeFrame_cfg (w : FrameWord) (s : State) : (placeFrame w s).cfg = s.cfg := rfl
@[simp] theorem placeFrame_mu (w : FrameWord) (s : State) : (placeFrame w s).mu = s.mu := rfl
@[simp] theorem placeFrame_su (w : FrameWord) (s : State) : (placeFrame w s).su = s.su := rfl
@[simp] theorem placeFrame_adc (w : FrameWord) (s : State) : (placeFrame w s).adc = s.adc := rfl
@[simp] theorem placeFrame_link (w : FrameWord) (s : State) : (placeFrame w s).link = s.link := rfl
@[simp] theorem placeFrame_host (w : FrameWord) (s : State) : (placeFrame w s).host = s.host := rfl
@[simp] theorem placeFrame_turns (w : FrameWord) (s : State) : (placeFrame w s).turns = { mu := none, su := some (.frame w) } :: s.turns := rfl
@[simp] theorem placeFrame_adcDraws (w : FrameWord) (s : State) : (placeFrame w s).adcDraws = s.adcDraws := rfl
@[simp] theorem placeFrame_drawCnt (w : FrameWord) (s : State) : (placeFrame w s).drawCnt = s.drawCnt := rfl

/-! `State.resetOf` -/

@[simp] theorem State.resetOf_cfg (c : Config) : (State.resetOf c).cfg = c := rfl
@[simp] theorem State.resetOf_mu (c : Config) : (State.resetOf c).mu = MU.reset c := rfl
@[simp] theorem State.resetOf_su (c : Config) : (State.resetOf c).su = SU.reset c := rfl
@[simp] theorem State.resetOf_adc (c : Config) : (State.resetOf c).adc = none := rfl
@[simp] theorem State.resetOf_link (c : Config) : (State.resetOf c).link = [] := rfl
@[simp] theorem State.resetOf_host (c : Config) : (State.resetOf c).host = [] := rfl
@[simp] theorem State.resetOf_turns (c : Config) : (State.resetOf c).turns = [] := rfl
@[simp] theorem State.resetOf_adcDraws (c : Config) : (State.resetOf c).adcDraws = [] := rfl
@[simp] theorem State.resetOf_drawCnt (c : Config) : (State.resetOf c).drawCnt = 0 := rfl

/-! `setCmdErr` -/

@[simp] theorem setCmdErr_tickEn (m : MU) : (setCmdErr m).tickEn = m.tickEn := rfl
@[simp] theorem setCmdErr_tcnt (m : MU) : (setCmdErr m).tcnt = m.tcnt := rfl
@[simp] theorem setCmdErr_convEn (m : MU) : (setCmdErr m).convEn = m.convEn := rfl
@[simp] theorem setCmdErr_adcPending (m : MU) : (setCmdErr m).adcPending = m.adcPending := rfl
@[simp] theorem setCmdErr_idx (m : MU) : (setCmdErr m).idx = m.idx := rfl
@[simp] theorem setCmdErr_blk (m : MU) : (setCmdErr m).blk = m.blk := rfl
@[simp] theorem setCmdErr_ready (m : MU) : (setCmdErr m).ready = m.ready := rfl
@[simp] theorem setCmdErr_tap (m : MU) : (setCmdErr m).tap = m.tap := rfl
@[simp] theorem setCmdErr_tapIdx (m : MU) : (setCmdErr m).tapIdx = m.tapIdx := rfl
@[simp] theorem setCmdErr_procBusy (m : MU) : (setCmdErr m).procBusy = m.procBusy := rfl
@[simp] theorem setCmdErr_procCnt (m : MU) : (setCmdErr m).procCnt = m.procCnt := rfl
@[simp] theorem setCmdErr_resPeak (m : MU) : (setCmdErr m).resPeak = m.resPeak := rfl
@[simp] theorem setCmdErr_resRms (m : MU) : (setCmdErr m).resRms = m.resRms := rfl
@[simp] theorem setCmdErr_resFreq (m : MU) : (setCmdErr m).resFreq = m.resFreq := rfl
@[simp] theorem setCmdErr_resValid (m : MU) : (setCmdErr m).resValid = m.resValid := rfl
@[simp] theorem setCmdErr_maPeak (m : MU) : (setCmdErr m).maPeak = m.maPeak := rfl
@[simp] theorem setCmdErr_maRms (m : MU) : (setCmdErr m).maRms = m.maRms := rfl
@[simp] theorem setCmdErr_maIdx (m : MU) : (setCmdErr m).maIdx = m.maIdx := rfl
@[simp] theorem setCmdErr_maCnt (m : MU) : (setCmdErr m).maCnt = m.maCnt := rfl
@[simp] theorem setCmdErr_txState (m : MU) : (setCmdErr m).txState = m.txState := rfl
@[simp] theorem setCmdErr_txShift (m : MU) : (setCmdErr m).txShift = m.txShift := rfl
@[simp] theorem setCmdErr_txBitcnt (m : MU) : (setCmdErr m).txBitcnt = m.txBitcnt := rfl
@[simp] theorem setCmdErr_txCyc (m : MU) : (setCmdErr m).txCyc = m.txCyc := rfl
@[simp] theorem setCmdErr_csN (m : MU) : (setCmdErr m).csN = m.csN := rfl
@[simp] theorem setCmdErr_sclk (m : MU) : (setCmdErr m).sclk = m.sclk := rfl
@[simp] theorem setCmdErr_mosi (m : MU) : (setCmdErr m).mosi = m.mosi := rfl
@[simp] theorem setCmdErr_cmdErr (m : MU) : (setCmdErr m).cmdErr = true := rfl
@[simp] theorem setCmdErr_tickMissed (m : MU) : (setCmdErr m).tickMissed = m.tickMissed := rfl
@[simp] theorem setCmdErr_sqOvf (m : MU) : (setCmdErr m).sqOvf = m.sqOvf := rfl
@[simp] theorem setCmdErr_adcStart (m : MU) : (setCmdErr m).adcStart = m.adcStart := rfl
@[simp] theorem setCmdErr_busResp (m : MU) : (setCmdErr m).busResp = m.busResp := rfl

/-! `setTickMissed` -/

@[simp] theorem setTickMissed_tickEn (m : MU) : (setTickMissed m).tickEn = m.tickEn := rfl
@[simp] theorem setTickMissed_tcnt (m : MU) : (setTickMissed m).tcnt = m.tcnt := rfl
@[simp] theorem setTickMissed_convEn (m : MU) : (setTickMissed m).convEn = m.convEn := rfl
@[simp] theorem setTickMissed_adcPending (m : MU) : (setTickMissed m).adcPending = m.adcPending := rfl
@[simp] theorem setTickMissed_idx (m : MU) : (setTickMissed m).idx = m.idx := rfl
@[simp] theorem setTickMissed_blk (m : MU) : (setTickMissed m).blk = m.blk := rfl
@[simp] theorem setTickMissed_ready (m : MU) : (setTickMissed m).ready = m.ready := rfl
@[simp] theorem setTickMissed_tap (m : MU) : (setTickMissed m).tap = m.tap := rfl
@[simp] theorem setTickMissed_tapIdx (m : MU) : (setTickMissed m).tapIdx = m.tapIdx := rfl
@[simp] theorem setTickMissed_procBusy (m : MU) : (setTickMissed m).procBusy = m.procBusy := rfl
@[simp] theorem setTickMissed_procCnt (m : MU) : (setTickMissed m).procCnt = m.procCnt := rfl
@[simp] theorem setTickMissed_resPeak (m : MU) : (setTickMissed m).resPeak = m.resPeak := rfl
@[simp] theorem setTickMissed_resRms (m : MU) : (setTickMissed m).resRms = m.resRms := rfl
@[simp] theorem setTickMissed_resFreq (m : MU) : (setTickMissed m).resFreq = m.resFreq := rfl
@[simp] theorem setTickMissed_resValid (m : MU) : (setTickMissed m).resValid = m.resValid := rfl
@[simp] theorem setTickMissed_maPeak (m : MU) : (setTickMissed m).maPeak = m.maPeak := rfl
@[simp] theorem setTickMissed_maRms (m : MU) : (setTickMissed m).maRms = m.maRms := rfl
@[simp] theorem setTickMissed_maIdx (m : MU) : (setTickMissed m).maIdx = m.maIdx := rfl
@[simp] theorem setTickMissed_maCnt (m : MU) : (setTickMissed m).maCnt = m.maCnt := rfl
@[simp] theorem setTickMissed_txState (m : MU) : (setTickMissed m).txState = m.txState := rfl
@[simp] theorem setTickMissed_txShift (m : MU) : (setTickMissed m).txShift = m.txShift := rfl
@[simp] theorem setTickMissed_txBitcnt (m : MU) : (setTickMissed m).txBitcnt = m.txBitcnt := rfl
@[simp] theorem setTickMissed_txCyc (m : MU) : (setTickMissed m).txCyc = m.txCyc := rfl
@[simp] theorem setTickMissed_csN (m : MU) : (setTickMissed m).csN = m.csN := rfl
@[simp] theorem setTickMissed_sclk (m : MU) : (setTickMissed m).sclk = m.sclk := rfl
@[simp] theorem setTickMissed_mosi (m : MU) : (setTickMissed m).mosi = m.mosi := rfl
@[simp] theorem setTickMissed_cmdErr (m : MU) : (setTickMissed m).cmdErr = m.cmdErr := rfl
@[simp] theorem setTickMissed_tickMissed (m : MU) : (setTickMissed m).tickMissed = true := rfl
@[simp] theorem setTickMissed_sqOvf (m : MU) : (setTickMissed m).sqOvf = m.sqOvf := rfl
@[simp] theorem setTickMissed_adcStart (m : MU) : (setTickMissed m).adcStart = m.adcStart := rfl
@[simp] theorem setTickMissed_busResp (m : MU) : (setTickMissed m).busResp = m.busResp := rfl

/-! `statusW1C` -/

@[simp] theorem statusW1C_tickEn (d : Word) (m : MU) : (statusW1C d m).tickEn = m.tickEn := rfl
@[simp] theorem statusW1C_tcnt (d : Word) (m : MU) : (statusW1C d m).tcnt = m.tcnt := rfl
@[simp] theorem statusW1C_convEn (d : Word) (m : MU) : (statusW1C d m).convEn = m.convEn := rfl
@[simp] theorem statusW1C_adcPending (d : Word) (m : MU) : (statusW1C d m).adcPending = m.adcPending := rfl
@[simp] theorem statusW1C_idx (d : Word) (m : MU) : (statusW1C d m).idx = m.idx := rfl
@[simp] theorem statusW1C_blk (d : Word) (m : MU) : (statusW1C d m).blk = m.blk := rfl
@[simp] theorem statusW1C_ready (d : Word) (m : MU) : (statusW1C d m).ready = m.ready := rfl
@[simp] theorem statusW1C_tap (d : Word) (m : MU) : (statusW1C d m).tap = m.tap := rfl
@[simp] theorem statusW1C_tapIdx (d : Word) (m : MU) : (statusW1C d m).tapIdx = m.tapIdx := rfl
@[simp] theorem statusW1C_procBusy (d : Word) (m : MU) : (statusW1C d m).procBusy = m.procBusy := rfl
@[simp] theorem statusW1C_procCnt (d : Word) (m : MU) : (statusW1C d m).procCnt = m.procCnt := rfl
@[simp] theorem statusW1C_resPeak (d : Word) (m : MU) : (statusW1C d m).resPeak = m.resPeak := rfl
@[simp] theorem statusW1C_resRms (d : Word) (m : MU) : (statusW1C d m).resRms = m.resRms := rfl
@[simp] theorem statusW1C_resFreq (d : Word) (m : MU) : (statusW1C d m).resFreq = m.resFreq := rfl
@[simp] theorem statusW1C_resValid (d : Word) (m : MU) : (statusW1C d m).resValid = m.resValid := rfl
@[simp] theorem statusW1C_maPeak (d : Word) (m : MU) : (statusW1C d m).maPeak = m.maPeak := rfl
@[simp] theorem statusW1C_maRms (d : Word) (m : MU) : (statusW1C d m).maRms = m.maRms := rfl
@[simp] theorem statusW1C_maIdx (d : Word) (m : MU) : (statusW1C d m).maIdx = m.maIdx := rfl
@[simp] theorem statusW1C_maCnt (d : Word) (m : MU) : (statusW1C d m).maCnt = m.maCnt := rfl
@[simp] theorem statusW1C_txState (d : Word) (m : MU) : (statusW1C d m).txState = m.txState := rfl
@[simp] theorem statusW1C_txShift (d : Word) (m : MU) : (statusW1C d m).txShift = m.txShift := rfl
@[simp] theorem statusW1C_txBitcnt (d : Word) (m : MU) : (statusW1C d m).txBitcnt = m.txBitcnt := rfl
@[simp] theorem statusW1C_txCyc (d : Word) (m : MU) : (statusW1C d m).txCyc = m.txCyc := rfl
@[simp] theorem statusW1C_csN (d : Word) (m : MU) : (statusW1C d m).csN = m.csN := rfl
@[simp] theorem statusW1C_sclk (d : Word) (m : MU) : (statusW1C d m).sclk = m.sclk := rfl
@[simp] theorem statusW1C_mosi (d : Word) (m : MU) : (statusW1C d m).mosi = m.mosi := rfl
@[simp] theorem statusW1C_cmdErr (d : Word) (m : MU) : (statusW1C d m).cmdErr = (m.cmdErr && !d.getLsbD 8) := rfl
@[simp] theorem statusW1C_tickMissed (d : Word) (m : MU) : (statusW1C d m).tickMissed = (m.tickMissed && !d.getLsbD 9) := rfl
@[simp] theorem statusW1C_sqOvf (d : Word) (m : MU) : (statusW1C d m).sqOvf = (m.sqOvf && !d.getLsbD 10) := rfl
@[simp] theorem statusW1C_adcStart (d : Word) (m : MU) : (statusW1C d m).adcStart = m.adcStart := rfl
@[simp] theorem statusW1C_busResp (d : Word) (m : MU) : (statusW1C d m).busResp = m.busResp := rfl

/-! `storeSample` -/

@[simp] theorem storeSample_tickEn (v : Reading) (m : MU) : (storeSample v m).tickEn = m.tickEn := rfl
@[simp] theorem storeSample_tcnt (v : Reading) (m : MU) : (storeSample v m).tcnt = m.tcnt := rfl
@[simp] theorem storeSample_convEn (v : Reading) (m : MU) : (storeSample v m).convEn = m.convEn := rfl
@[simp] theorem storeSample_adcPending (v : Reading) (m : MU) : (storeSample v m).adcPending = m.adcPending := rfl
@[simp] theorem storeSample_idx (v : Reading) (m : MU) : (storeSample v m).idx = m.idx + 1 := rfl
@[simp] theorem storeSample_blk (v : Reading) (m : MU) : (storeSample v m).blk = m.blk.set m.idx v := rfl
@[simp] theorem storeSample_ready (v : Reading) (m : MU) : (storeSample v m).ready = m.ready := rfl
@[simp] theorem storeSample_tap (v : Reading) (m : MU) : (storeSample v m).tap = m.tap := rfl
@[simp] theorem storeSample_tapIdx (v : Reading) (m : MU) : (storeSample v m).tapIdx = m.tapIdx := rfl
@[simp] theorem storeSample_procBusy (v : Reading) (m : MU) : (storeSample v m).procBusy = m.procBusy := rfl
@[simp] theorem storeSample_procCnt (v : Reading) (m : MU) : (storeSample v m).procCnt = m.procCnt := rfl
@[simp] theorem storeSample_resPeak (v : Reading) (m : MU) : (storeSample v m).resPeak = m.resPeak := rfl
@[simp] theorem storeSample_resRms (v : Reading) (m : MU) : (storeSample v m).resRms = m.resRms := rfl
@[simp] theorem storeSample_resFreq (v : Reading) (m : MU) : (storeSample v m).resFreq = m.resFreq := rfl
@[simp] theorem storeSample_resValid (v : Reading) (m : MU) : (storeSample v m).resValid = m.resValid := rfl
@[simp] theorem storeSample_maPeak (v : Reading) (m : MU) : (storeSample v m).maPeak = m.maPeak := rfl
@[simp] theorem storeSample_maRms (v : Reading) (m : MU) : (storeSample v m).maRms = m.maRms := rfl
@[simp] theorem storeSample_maIdx (v : Reading) (m : MU) : (storeSample v m).maIdx = m.maIdx := rfl
@[simp] theorem storeSample_maCnt (v : Reading) (m : MU) : (storeSample v m).maCnt = m.maCnt := rfl
@[simp] theorem storeSample_txState (v : Reading) (m : MU) : (storeSample v m).txState = m.txState := rfl
@[simp] theorem storeSample_txShift (v : Reading) (m : MU) : (storeSample v m).txShift = m.txShift := rfl
@[simp] theorem storeSample_txBitcnt (v : Reading) (m : MU) : (storeSample v m).txBitcnt = m.txBitcnt := rfl
@[simp] theorem storeSample_txCyc (v : Reading) (m : MU) : (storeSample v m).txCyc = m.txCyc := rfl
@[simp] theorem storeSample_csN (v : Reading) (m : MU) : (storeSample v m).csN = m.csN := rfl
@[simp] theorem storeSample_sclk (v : Reading) (m : MU) : (storeSample v m).sclk = m.sclk := rfl
@[simp] theorem storeSample_mosi (v : Reading) (m : MU) : (storeSample v m).mosi = m.mosi := rfl
@[simp] theorem storeSample_cmdErr (v : Reading) (m : MU) : (storeSample v m).cmdErr = m.cmdErr := rfl
@[simp] theorem storeSample_tickMissed (v : Reading) (m : MU) : (storeSample v m).tickMissed = m.tickMissed := rfl
@[simp] theorem storeSample_sqOvf (v : Reading) (m : MU) : (storeSample v m).sqOvf = m.sqOvf := rfl
@[simp] theorem storeSample_adcStart (v : Reading) (m : MU) : (storeSample v m).adcStart = m.adcStart := rfl
@[simp] theorem storeSample_busResp (v : Reading) (m : MU) : (storeSample v m).busResp = m.busResp := rfl

/-! `blockFull` -/

@[simp] theorem blockFull_tickEn (m : MU) : (blockFull m).tickEn = false := rfl
@[simp] theorem blockFull_tcnt (m : MU) : (blockFull m).tcnt = 0 := rfl
@[simp] theorem blockFull_convEn (m : MU) : (blockFull m).convEn = false := rfl
@[simp] theorem blockFull_adcPending (m : MU) : (blockFull m).adcPending = m.adcPending := rfl
@[simp] theorem blockFull_idx (m : MU) : (blockFull m).idx = m.idx := rfl
@[simp] theorem blockFull_blk (m : MU) : (blockFull m).blk = m.blk := rfl
@[simp] theorem blockFull_ready (m : MU) : (blockFull m).ready = true := rfl
@[simp] theorem blockFull_tap (m : MU) : (blockFull m).tap = m.tap := rfl
@[simp] theorem blockFull_tapIdx (m : MU) : (blockFull m).tapIdx = m.tapIdx := rfl
@[simp] theorem blockFull_procBusy (m : MU) : (blockFull m).procBusy = m.procBusy := rfl
@[simp] theorem blockFull_procCnt (m : MU) : (blockFull m).procCnt = m.procCnt := rfl
@[simp] theorem blockFull_resPeak (m : MU) : (blockFull m).resPeak = m.resPeak := rfl
@[simp] theorem blockFull_resRms (m : MU) : (blockFull m).resRms = m.resRms := rfl
@[simp] theorem blockFull_resFreq (m : MU) : (blockFull m).resFreq = m.resFreq := rfl
@[simp] theorem blockFull_resValid (m : MU) : (blockFull m).resValid = m.resValid := rfl
@[simp] theorem blockFull_maPeak (m : MU) : (blockFull m).maPeak = m.maPeak := rfl
@[simp] theorem blockFull_maRms (m : MU) : (blockFull m).maRms = m.maRms := rfl
@[simp] theorem blockFull_maIdx (m : MU) : (blockFull m).maIdx = m.maIdx := rfl
@[simp] theorem blockFull_maCnt (m : MU) : (blockFull m).maCnt = m.maCnt := rfl
@[simp] theorem blockFull_txState (m : MU) : (blockFull m).txState = m.txState := rfl
@[simp] theorem blockFull_txShift (m : MU) : (blockFull m).txShift = m.txShift := rfl
@[simp] theorem blockFull_txBitcnt (m : MU) : (blockFull m).txBitcnt = m.txBitcnt := rfl
@[simp] theorem blockFull_txCyc (m : MU) : (blockFull m).txCyc = m.txCyc := rfl
@[simp] theorem blockFull_csN (m : MU) : (blockFull m).csN = m.csN := rfl
@[simp] theorem blockFull_sclk (m : MU) : (blockFull m).sclk = m.sclk := rfl
@[simp] theorem blockFull_mosi (m : MU) : (blockFull m).mosi = m.mosi := rfl
@[simp] theorem blockFull_cmdErr (m : MU) : (blockFull m).cmdErr = m.cmdErr := rfl
@[simp] theorem blockFull_tickMissed (m : MU) : (blockFull m).tickMissed = m.tickMissed := rfl
@[simp] theorem blockFull_sqOvf (m : MU) : (blockFull m).sqOvf = m.sqOvf := rfl
@[simp] theorem blockFull_adcStart (m : MU) : (blockFull m).adcStart = m.adcStart := rfl
@[simp] theorem blockFull_busResp (m : MU) : (blockFull m).busResp = m.busResp := rfl

/-! `enterLow` -/

@[simp] theorem enterLow_tickEn (m : MU) : (enterLow m).tickEn = m.tickEn := rfl
@[simp] theorem enterLow_tcnt (m : MU) : (enterLow m).tcnt = m.tcnt := rfl
@[simp] theorem enterLow_convEn (m : MU) : (enterLow m).convEn = m.convEn := rfl
@[simp] theorem enterLow_adcPending (m : MU) : (enterLow m).adcPending = m.adcPending := rfl
@[simp] theorem enterLow_idx (m : MU) : (enterLow m).idx = m.idx := rfl
@[simp] theorem enterLow_blk (m : MU) : (enterLow m).blk = m.blk := rfl
@[simp] theorem enterLow_ready (m : MU) : (enterLow m).ready = m.ready := rfl
@[simp] theorem enterLow_tap (m : MU) : (enterLow m).tap = m.tap := rfl
@[simp] theorem enterLow_tapIdx (m : MU) : (enterLow m).tapIdx = m.tapIdx := rfl
@[simp] theorem enterLow_procBusy (m : MU) : (enterLow m).procBusy = m.procBusy := rfl
@[simp] theorem enterLow_procCnt (m : MU) : (enterLow m).procCnt = m.procCnt := rfl
@[simp] theorem enterLow_resPeak (m : MU) : (enterLow m).resPeak = m.resPeak := rfl
@[simp] theorem enterLow_resRms (m : MU) : (enterLow m).resRms = m.resRms := rfl
@[simp] theorem enterLow_resFreq (m : MU) : (enterLow m).resFreq = m.resFreq := rfl
@[simp] theorem enterLow_resValid (m : MU) : (enterLow m).resValid = m.resValid := rfl
@[simp] theorem enterLow_maPeak (m : MU) : (enterLow m).maPeak = m.maPeak := rfl
@[simp] theorem enterLow_maRms (m : MU) : (enterLow m).maRms = m.maRms := rfl
@[simp] theorem enterLow_maIdx (m : MU) : (enterLow m).maIdx = m.maIdx := rfl
@[simp] theorem enterLow_maCnt (m : MU) : (enterLow m).maCnt = m.maCnt := rfl
@[simp] theorem enterLow_txState (m : MU) : (enterLow m).txState = .bits := rfl
@[simp] theorem enterLow_txShift (m : MU) : (enterLow m).txShift = m.txShift := rfl
@[simp] theorem enterLow_txBitcnt (m : MU) : (enterLow m).txBitcnt = m.txBitcnt := rfl
@[simp] theorem enterLow_txCyc (m : MU) : (enterLow m).txCyc = 0 := rfl
@[simp] theorem enterLow_csN (m : MU) : (enterLow m).csN = false := rfl
@[simp] theorem enterLow_sclk (m : MU) : (enterLow m).sclk = false := rfl
@[simp] theorem enterLow_mosi (m : MU) : (enterLow m).mosi = m.txShift.getLsbD 63 := rfl
@[simp] theorem enterLow_cmdErr (m : MU) : (enterLow m).cmdErr = m.cmdErr := rfl
@[simp] theorem enterLow_tickMissed (m : MU) : (enterLow m).tickMissed = m.tickMissed := rfl
@[simp] theorem enterLow_sqOvf (m : MU) : (enterLow m).sqOvf = m.sqOvf := rfl
@[simp] theorem enterLow_adcStart (m : MU) : (enterLow m).adcStart = m.adcStart := rfl
@[simp] theorem enterLow_busResp (m : MU) : (enterLow m).busResp = m.busResp := rfl

/-! `shiftBit` -/

@[simp] theorem shiftBit_tickEn (m : MU) : (shiftBit m).tickEn = m.tickEn := rfl
@[simp] theorem shiftBit_tcnt (m : MU) : (shiftBit m).tcnt = m.tcnt := rfl
@[simp] theorem shiftBit_convEn (m : MU) : (shiftBit m).convEn = m.convEn := rfl
@[simp] theorem shiftBit_adcPending (m : MU) : (shiftBit m).adcPending = m.adcPending := rfl
@[simp] theorem shiftBit_idx (m : MU) : (shiftBit m).idx = m.idx := rfl
@[simp] theorem shiftBit_blk (m : MU) : (shiftBit m).blk = m.blk := rfl
@[simp] theorem shiftBit_ready (m : MU) : (shiftBit m).ready = m.ready := rfl
@[simp] theorem shiftBit_tap (m : MU) : (shiftBit m).tap = m.tap := rfl
@[simp] theorem shiftBit_tapIdx (m : MU) : (shiftBit m).tapIdx = m.tapIdx := rfl
@[simp] theorem shiftBit_procBusy (m : MU) : (shiftBit m).procBusy = m.procBusy := rfl
@[simp] theorem shiftBit_procCnt (m : MU) : (shiftBit m).procCnt = m.procCnt := rfl
@[simp] theorem shiftBit_resPeak (m : MU) : (shiftBit m).resPeak = m.resPeak := rfl
@[simp] theorem shiftBit_resRms (m : MU) : (shiftBit m).resRms = m.resRms := rfl
@[simp] theorem shiftBit_resFreq (m : MU) : (shiftBit m).resFreq = m.resFreq := rfl
@[simp] theorem shiftBit_resValid (m : MU) : (shiftBit m).resValid = m.resValid := rfl
@[simp] theorem shiftBit_maPeak (m : MU) : (shiftBit m).maPeak = m.maPeak := rfl
@[simp] theorem shiftBit_maRms (m : MU) : (shiftBit m).maRms = m.maRms := rfl
@[simp] theorem shiftBit_maIdx (m : MU) : (shiftBit m).maIdx = m.maIdx := rfl
@[simp] theorem shiftBit_maCnt (m : MU) : (shiftBit m).maCnt = m.maCnt := rfl
@[simp] theorem shiftBit_txState (m : MU) : (shiftBit m).txState = m.txState := rfl
@[simp] theorem shiftBit_txShift (m : MU) : (shiftBit m).txShift = m.txShift <<< 1 := rfl
@[simp] theorem shiftBit_txBitcnt (m : MU) : (shiftBit m).txBitcnt = m.txBitcnt + 1 := rfl
@[simp] theorem shiftBit_txCyc (m : MU) : (shiftBit m).txCyc = m.txCyc := rfl
@[simp] theorem shiftBit_csN (m : MU) : (shiftBit m).csN = m.csN := rfl
@[simp] theorem shiftBit_sclk (m : MU) : (shiftBit m).sclk = m.sclk := rfl
@[simp] theorem shiftBit_mosi (m : MU) : (shiftBit m).mosi = m.mosi := rfl
@[simp] theorem shiftBit_cmdErr (m : MU) : (shiftBit m).cmdErr = m.cmdErr := rfl
@[simp] theorem shiftBit_tickMissed (m : MU) : (shiftBit m).tickMissed = m.tickMissed := rfl
@[simp] theorem shiftBit_sqOvf (m : MU) : (shiftBit m).sqOvf = m.sqOvf := rfl
@[simp] theorem shiftBit_adcStart (m : MU) : (shiftBit m).adcStart = m.adcStart := rfl
@[simp] theorem shiftBit_busResp (m : MU) : (shiftBit m).busResp = m.busResp := rfl

/-! `suCsFall` -/

@[simp] theorem suCsFall_rxState (u : SU) : (suCsFall u).rxState = .collecting := rfl
@[simp] theorem suCsFall_rxBitcnt (u : SU) : (suCsFall u).rxBitcnt = 0 := rfl
@[simp] theorem suCsFall_rxShift (u : SU) : (suCsFall u).rxShift = 0#8 := rfl
@[simp] theorem suCsFall_rxWcnt (u : SU) : (suCsFall u).rxWcnt = 0 := rfl
@[simp] theorem suCsFall_rxBuf (u : SU) : (suCsFall u).rxBuf = u.rxBuf := rfl
@[simp] theorem suCsFall_rxLen (u : SU) : (suCsFall u).rxLen = 0 := rfl
@[simp] theorem suCsFall_dispValid (u : SU) : (suCsFall u).dispValid = u.dispValid := rfl
@[simp] theorem suCsFall_dispPeak (u : SU) : (suCsFall u).dispPeak = u.dispPeak := rfl
@[simp] theorem suCsFall_dispRms (u : SU) : (suCsFall u).dispRms = u.dispRms := rfl
@[simp] theorem suCsFall_dispFreq (u : SU) : (suCsFall u).dispFreq = u.dispFreq := rfl

/-! `dispatch` -/

@[simp] theorem dispatch_rxState (p r f : Half) (u : SU) : (dispatch p r f u).rxState = u.rxState := rfl
@[simp] theorem dispatch_rxBitcnt (p r f : Half) (u : SU) : (dispatch p r f u).rxBitcnt = u.rxBitcnt := rfl
@[simp] theorem dispatch_rxShift (p r f : Half) (u : SU) : (dispatch p r f u).rxShift = u.rxShift := rfl
@[simp] theorem dispatch_rxWcnt (p r f : Half) (u : SU) : (dispatch p r f u).rxWcnt = u.rxWcnt := rfl
@[simp] theorem dispatch_rxBuf (p r f : Half) (u : SU) : (dispatch p r f u).rxBuf = u.rxBuf := rfl
@[simp] theorem dispatch_rxLen (p r f : Half) (u : SU) : (dispatch p r f u).rxLen = u.rxLen := rfl
@[simp] theorem dispatch_dispValid (p r f : Half) (u : SU) : (dispatch p r f u).dispValid = true := rfl
@[simp] theorem dispatch_dispPeak (p r f : Half) (u : SU) : (dispatch p r f u).dispPeak = p := rfl
@[simp] theorem dispatch_dispRms (p r f : Half) (u : SU) : (dispatch p r f u).dispRms = r := rfl
@[simp] theorem dispatch_dispFreq (p r f : Half) (u : SU) : (dispatch p r f u).dispFreq = f := rfl

/-! `closeCollection` -/

@[simp] theorem closeCollection_rxState (u : SU) : (closeCollection u).rxState = .idle := rfl
@[simp] theorem closeCollection_rxBitcnt (u : SU) : (closeCollection u).rxBitcnt = 0 := rfl
@[simp] theorem closeCollection_rxShift (u : SU) : (closeCollection u).rxShift = 0#8 := rfl
@[simp] theorem closeCollection_rxWcnt (u : SU) : (closeCollection u).rxWcnt = u.rxWcnt := rfl
@[simp] theorem closeCollection_rxBuf (u : SU) : (closeCollection u).rxBuf = u.rxBuf := rfl
@[simp] theorem closeCollection_rxLen (u : SU) : (closeCollection u).rxLen = u.rxLen := rfl
@[simp] theorem closeCollection_dispValid (u : SU) : (closeCollection u).dispValid = u.dispValid := rfl
@[simp] theorem closeCollection_dispPeak (u : SU) : (closeCollection u).dispPeak = u.dispPeak := rfl
@[simp] theorem closeCollection_dispRms (u : SU) : (closeCollection u).dispRms = u.dispRms := rfl
@[simp] theorem closeCollection_dispFreq (u : SU) : (closeCollection u).dispFreq = u.dispFreq := rfl

/-! `suCycleStart` -/

@[simp] theorem suCycleStart_rxState (u : SU) : (suCycleStart u).rxState = u.rxState := rfl
@[simp] theorem suCycleStart_rxBitcnt (u : SU) : (suCycleStart u).rxBitcnt = u.rxBitcnt := rfl
@[simp] theorem suCycleStart_rxShift (u : SU) : (suCycleStart u).rxShift = u.rxShift := rfl
@[simp] theorem suCycleStart_rxWcnt (u : SU) : (suCycleStart u).rxWcnt = u.rxWcnt := rfl
@[simp] theorem suCycleStart_rxBuf (u : SU) : (suCycleStart u).rxBuf = u.rxBuf := rfl
@[simp] theorem suCycleStart_rxLen (u : SU) : (suCycleStart u).rxLen = u.rxLen := rfl
@[simp] theorem suCycleStart_dispValid (u : SU) : (suCycleStart u).dispValid = false := rfl
@[simp] theorem suCycleStart_dispPeak (u : SU) : (suCycleStart u).dispPeak = u.dispPeak := rfl
@[simp] theorem suCycleStart_dispRms (u : SU) : (suCycleStart u).dispRms = u.dispRms := rfl
@[simp] theorem suCycleStart_dispFreq (u : SU) : (suCycleStart u).dispFreq = u.dispFreq := rfl

end Sys2Proof.Machine
end

