-- ==== Sys2Proof/Laws/Decode.lean ====
section
/-! SUPPORT. The fields of the words the encoder builds, what decoding makes of them, and the aligned offsets one by one. -/

namespace Sys2Proof.Machine

theorem extract_low {v w : Nat} (x : BitVec v) (y : BitVec w) : (x ++ y).extractLsb' 0 w = y := BitVec.extractLsb'_append_eq_right
theorem extract_high {v w : Nat} (x : BitVec v) (y : BitVec w) : (x ++ y).extractLsb' w v = x := BitVec.extractLsb'_append_eq_left
theorem extract_above {v w : Nat} (x : BitVec v) (y : BitVec w) {a n : Nat} : (x ++ y).extractLsb' (a + w) n = x.extractLsb' a n := by
  rw [BitVec.extractLsb'_append_eq_of_le (by omega)]; simp
theorem bit_above {v w : Nat} (x : BitVec v) (y : BitVec w) {a : Nat} : (x ++ y).getLsbD (a + w) = x.getLsbD a := by
  rw [BitVec.getLsbD_append]; simp

theorem busData_busWord (w : Bool) (sz : BitVec 2) (a : Offset) (d : Word) : busData (busWord w sz a d) = d :=
  extract_low (v := 16) _ d
theorem busAddr_busWord (w : Bool) (sz : BitVec 2) (a : Offset) (d : Word) : busAddr (busWord w sz a d) = a :=
  (extract_above (v := 16) (w := 32) (BitVec.ofBool w ++ sz ++ 0#7 ++ a) d (a := 0) (n := 6)).trans (extract_low (v := 10) _ a)
theorem busSize_busWord (w : Bool) (sz : BitVec 2) (a : Offset) (d : Word) : busSize (busWord w sz a d) = sz :=
  (extract_above (v := 16) (w := 32) (BitVec.ofBool w ++ sz ++ 0#7 ++ a) d (a := 13) (n := 2)).trans <|
    (extract_above (v := 10) (w := 6) (BitVec.ofBool w ++ sz ++ 0#7) a (a := 7) (n := 2)).trans <|
    (extract_above (v := 3) (w := 7) (BitVec.ofBool w ++ sz) 0#7 (a := 0) (n := 2)).trans (extract_low (v := 1) _ sz)
theorem busW_busWord (w : Bool) (sz : BitVec 2) (a : Offset) (d : Word) : busW (busWord w sz a d) = w :=
  (bit_above (v := 16) (w := 32) (BitVec.ofBool w ++ sz ++ 0#7 ++ a) d (a := 15)).trans <|
    (bit_above (v := 10) (w := 6) (BitVec.ofBool w ++ sz ++ 0#7) a (a := 9)).trans <|
    (bit_above (v := 3) (w := 7) (BitVec.ofBool w ++ sz) 0#7 (a := 2)).trans <|
    (bit_above (v := 1) (w := 2) (BitVec.ofBool w) sz (a := 0)).trans (by simp)
theorem cmdHi_cmdData (hi : BitVec 24) (c : Byte) : cmdHi (cmdData hi c) = hi := extract_high hi c
theorem cmdCode_cmdData (hi : BitVec 24) (c : Byte) : cmdCode (cmdData hi c) = c := extract_low hi c
theorem cmdData_eta (d : Word) : cmdData (cmdHi d) (cmdCode d) = d := by
  unfold cmdData cmdHi cmdCode
  have := @BitVec.extractLsb'_append_extractLsb'_eq_extractLsb' 32 8 0 8 24 d rfl
  rw [this]; exact BitVec.extractLsb'_eq_self
theorem busWord_eta (t : BusWord) : t = BitVec.ofBool (busW t) ++ busSize t ++ t.extractLsb' 38 7 ++ busAddr t ++ busData t := by
  have h1 : BitVec.ofBool (busW t) = t.extractLsb' 47 1 := by
    apply BitVec.eq_of_getLsbD_eq; intro i hi
    have : i = 0 := by omega
    subst this; simp [busW]
  unfold busSize busAddr busData
  rw [h1, @BitVec.extractLsb'_append_extractLsb'_eq_extractLsb' 48 47 45 2 1 t rfl,
   @BitVec.extractLsb'_append_extractLsb'_eq_extractLsb' 48 45 38 7 3 t rfl,
   @BitVec.extractLsb'_append_extractLsb'_eq_extractLsb' 48 38 32 6 10 t rfl,
   @BitVec.extractLsb'_append_extractLsb'_eq_extractLsb' 48 32 0 32 16 t rfl]
  exact BitVec.extractLsb'_eq_self.symm

theorem frameWord_cmd (c r : Byte) (p q f : Half) : (frameWord c r p q f).extractLsb' 56 8 = c := 
  (extract_above (v := 48) (w := 16) (c ++ r ++ p ++ q) f (a := 40) (n := 8)).trans <|
  (extract_above (v := 32) (w := 16) (c ++ r ++ p) q (a := 24) (n := 8)).trans <|
  (extract_above (v := 16) (w := 16) (c ++ r) p (a := 8) (n := 8)).trans (extract_high c r)
theorem frameWord_rsvd (c r : Byte) (p q f : Half) : (frameWord c r p q f).extractLsb' 48 8 = r := 
  (extract_above (v := 48) (w := 16) (c ++ r ++ p ++ q) f (a := 32) (n := 8)).trans <|
  (extract_above (v := 32) (w := 16) (c ++ r ++ p) q (a := 16) (n := 8)).trans <|
  (extract_above (v := 16) (w := 16) (c ++ r) p (a := 0) (n := 8)).trans (extract_low c r)
theorem frameWord_peak (c r : Byte) (p q f : Half) : (frameWord c r p q f).extractLsb' 32 16 = p := 
  (extract_above (v := 48) (w := 16) (c ++ r ++ p ++ q) f (a := 16) (n := 16)).trans <|
  (extract_above (v := 32) (w := 16) (c ++ r ++ p) q (a := 0) (n := 16)).trans (extract_low (v := 16) _ p)
theorem frameWord_rms (c r : Byte) (p q f : Half) : (frameWord c r p q f).extractLsb' 16 16 = q := 
  (extract_above (v := 48) (w := 16) (c ++ r ++ p ++ q) f (a := 0) (n := 16)).trans (extract_low (v := 32) _ q)
theorem frameWord_freq (c r : Byte) (p q f : Half) : (frameWord c r p q f).extractLsb' 0 16 = f := extract_low (v := 48) _ f
theorem frameWord_eta (w : FrameWord) : frameWord (w.extractLsb' 56 8) (w.extractLsb' 48 8) (w.extractLsb' 32 16) (w.extractLsb' 16 16) (w.extractLsb' 0 16) = w := by
  unfold frameWord
  rw [@BitVec.extractLsb'_append_extractLsb'_eq_extractLsb' 64 56 48 8 8 w rfl,
   @BitVec.extractLsb'_append_extractLsb'_eq_extractLsb' 64 48 32 16 16 w rfl,
   @BitVec.extractLsb'_append_extractLsb'_eq_extractLsb' 64 32 16 16 32 w rfl,
   @BitVec.extractLsb'_append_extractLsb'_eq_extractLsb' 64 16 0 16 48 w rfl]
  exact BitVec.extractLsb'_eq_self
theorem decodeFrame_frameWord (c r : Byte) (p q f : Half) : decodeFrame (frameWord c r p q f) = if c = 2#8 then .frameMeas r p q f else .frameBad c r p q f := by
  simp only [decodeFrame, frameWord_cmd, frameWord_rsvd, frameWord_peak, frameWord_rms, frameWord_freq]
theorem decodeRead_lo (s : BitVec 1) : decodeRead (unmappedLo s) = .rdUnmappedLo s := by revert s; decide
theorem decodeRead_hi (s : BitVec 3) : decodeRead (unmappedHi s) = .rdUnmappedHi s := by revert s; decide
theorem unmappedLo_facts (s : BitVec 1) : (unmappedLo s).getLsbD 0 = false ∧ (unmappedLo s).getLsbD 1 = false ∧ (unmappedLo s).getLsbD 5 = false ∧ (unmappedLo s).extractLsb' 2 1 = s
  ∧ unmappedLo s ≠ 0#6 ∧ unmappedLo s ≠ 4#6 ∧ unmappedLo s ≠ 8#6 ∧ unmappedLo s ≠ 0xC#6 ∧ unmappedLo s ≠ 0x10#6 ∧ unmappedLo s ≠ 0x14#6 := by revert s; decide
theorem unmappedHi_facts (s : BitVec 3) : (unmappedHi s).getLsbD 0 = false ∧ (unmappedHi s).getLsbD 1 = false ∧ (unmappedHi s).getLsbD 5 = true ∧ (unmappedHi s).extractLsb' 2 3 = s
  ∧ unmappedHi s ≠ 0#6 ∧ unmappedHi s ≠ 4#6 ∧ unmappedHi s ≠ 8#6 ∧ unmappedHi s ≠ 0xC#6 ∧ unmappedHi s ≠ 0x10#6 ∧ unmappedHi s ≠ 0x14#6 := by revert s; decide
theorem decodeWrite_lo (s : BitVec 1) (d) : decodeWrite (unmappedLo s) d = .wrUnmappedLo s d := by
  obtain ⟨_,_,h5,hx,h1,h2,h3,h4,h6,h7⟩ := unmappedLo_facts s
  simp only [decodeWrite, h5,hx,h1,h2,h3,h4,h6,h7, if_false, if_true]
theorem decodeWrite_hi (s : BitVec 3) (d) : decodeWrite (unmappedHi s) d = .wrUnmappedHi s d := by
  obtain ⟨_,_,h5,hx,h1,h2,h3,h4,h6,h7⟩ := unmappedHi_facts s
  simp only [decodeWrite, h5,hx,h1,h2,h3,h4,h6,h7, if_false]; rfl
theorem decodeBus_busWord (w sz a d) : decodeBus (busWord w sz a d) = 
  if sz = 0#2 then .busErrSizeB w a d
  else if sz = 1#2 then .busErrSizeH w a d
  else if sz = 3#2 then .busErrSizeR w a d
  else if a.getLsbD 0 = true then .busErrAlign1 w a d
  else if a.getLsbD 1 = true then .busErrAlign2 w a d
  else if w = false then decodeRead a
  else decodeWrite a d := by
  simp only [decodeBus, busW_busWord, busSize_busWord, busAddr_busWord, busData_busWord]
theorem decodeBus_rdWord (a) (h0 : a.getLsbD 0 = false) (h1 : a.getLsbD 1 = false): decodeBus (rdWord a) = decodeRead a := by
  rw [rdWord, decodeBus_busWord, if_neg (by decide), if_neg (by decide), if_neg (by decide), if_neg (by rw [h0]; decide), if_neg (by rw [h1]; decide), if_pos rfl]
theorem decodeBus_wrWord (a d) (h0 : a.getLsbD 0 = false) (h1 : a.getLsbD 1 = false): decodeBus (wrWord a d) = decodeWrite a d := by
  rw [wrWord, decodeBus_busWord, if_neg (by decide), if_neg (by decide), if_neg (by decide), if_neg (by rw [h0]; decide), if_neg (by rw [h1]; decide), if_neg (by simp)]
theorem decodeBus_cmd (hi c) : decodeBus (wrWord 0#6 (cmdData hi c)) = if c = 0#8 then .nop hi else if c = 1#8 then .start hi else if c = 2#8 then .process hi else if c = 3#8 then .send hi else .cmdReserved hi c := by
  rw [decodeBus_wrWord _ _ (by decide) (by decide)]
  simp only [decodeWrite, if_true, decodeCmd, cmdHi_cmdData, cmdCode_cmdData]
theorem aligned_of_bits : ∀ a : Offset, a.getLsbD 0 = false → a.getLsbD 1 = false → a.extractLsb' 0 2 = 0#2 := by decide
theorem unaligned_of_bit0 : ∀ a : Offset, a.getLsbD 0 = true → a.extractLsb' 0 2 ≠ 0#2 := by decide
theorem unaligned_of_bit1 : ∀ a : Offset, a.getLsbD 1 = true → a.extractLsb' 0 2 ≠ 0#2 := by decide
theorem aligned_offsets : ∀ a : Offset, a.getLsbD 0 = false → a.getLsbD 1 = false → a = 0#6 ∨ a = 4#6 ∨ a = 8#6 ∨ a = 12#6 ∨ a = 16#6 ∨ a = 20#6 ∨ (∃ s, a = unmappedLo s) ∨ ∃ s, a = unmappedHi s := by decide
theorem size_cases (x : BitVec 2) : x = 0#2 ∨ x = 1#2 ∨ x = 2#2 ∨ x = 3#2 := by revert x; decide
theorem and_high {a b : Nat} (x m : BitVec a) (y : BitVec b) : (x ++ y) &&& (m ++ 0#b) = (x &&& m) ++ 0#b := by
  rw [BitVec.and_append, BitVec.and_zero]

/-- The fields of a transaction word under a mask that leaves bits 44:38 out. -/
theorem and_busWord (t : BusWord) (mw : Bool) (ms : BitVec 2) (ma : Offset) (md : Word) :
    t &&& busWord mw ms ma md = busWord (busW t && mw) (busSize t &&& ms) (busAddr t &&& ma) (busData t &&& md) := by
  conv_lhs => rw [busWord_eta t]
  unfold busWord
  refine (BitVec.and_append (w := 16) (v := 32)).trans ?_
  rw [BitVec.and_append, BitVec.and_append, BitVec.and_append, BitVec.and_zero]
  congr 4
  cases busW t <;> cases mw <;> rfl

theorem busWord_inj {w w' : Bool} {z z' : BitVec 2} {a a' : Offset} {d d' : Word} :
    busWord w z a d = busWord w' z' a' d' ↔ w = w' ∧ z = z' ∧ a = a' ∧ d = d' := by
  constructor
  · intro h
    have h1 := congrArg busW h
    have h2 := congrArg busSize h
    have h3 := congrArg busAddr h
    have h4 := congrArg busData h
    simp only [busW_busWord, busSize_busWord, busAddr_busWord, busData_busWord] at h1 h2 h3 h4
    exact ⟨h1, h2, h3, h4⟩
  · rintro ⟨rfl, rfl, rfl, rfl⟩; rfl

/-- When a word matches a row of the opcode table, field by field. -/
theorem matches_iff {r : BusRow} {t : BusWord} (mw pw : Bool) (ms ps : BitVec 2) (ma pa : Offset) (md pd : Word)
    (hm : r.mask = busWord mw ms ma md) (hp : r.pattern = busWord pw ps pa pd) :
    r.Matches t ↔ (busW t && mw) = pw ∧ busSize t &&& ms = ps ∧ busAddr t &&& ma = pa ∧ busData t &&& md = pd := by
  rw [BusRow.Matches, hm, hp, and_busWord, busWord_inj]

/-- DATA[7:0] of a command under the mask of its row. -/
theorem cmd_low (hi : BitVec 24) (c : Byte) : cmdData hi c &&& 0xFF#32 = 0#24 ++ c := by
  show ((hi ++ c : BitVec (24 + 8)) &&& (0#24 ++ 0xFF#8)) = _
  rw [BitVec.and_append, BitVec.and_zero]; congr 1; exact BitVec.and_allOnes

/-- The FRAME_MEAS row's mask and pattern say that the first byte is 0x02. -/
theorem frame_first_byte (w : FrameWord) :
    w &&& 0xFF00000000000000#64 = 0x0200000000000000#64 ↔ w.extractLsb' 56 8 = 0x02#8 := by
  have h : w &&& 0xFF00000000000000#64 = (w.extractLsb' 56 8 ++ (0#56) : BitVec (8+56)) := by
    have hw : w = (w.extractLsb' 56 8 ++ w.extractLsb' 0 56 : BitVec (8+56)) := by
      rw [@BitVec.extractLsb'_append_extractLsb'_eq_extractLsb' 64 56 0 56 8 w rfl]; exact BitVec.extractLsb'_eq_self.symm
    conv_lhs => rw [hw]
    exact (and_high (b := 56) (w.extractLsb' 56 8) 0xFF#8 _).trans (by congr 1; exact BitVec.and_allOnes)
  rw [h]
  constructor
  · intro e
    exact (extract_high _ _).symm.trans ((congrArg (fun x : BitVec (8+56) => x.extractLsb' 56 8) e).trans (by decide))
  · intro e; rw [e]; rfl

theorem exec_aligned_read (s : State) (t : BusWord) (hw : busW t = false) (hz : busSize t = 2#2) (ha : (busAddr t).extractLsb' 0 2 = 0#2) : exec (decodeBus t) s = .next (readRegister (busAddr t) s) := by
  have h0 : (busAddr t).getLsbD 0 = false := by
    by_contra h; exact unaligned_of_bit0 _ (by simpa using h) ha
  have h1 : (busAddr t).getLsbD 1 = false := by
    by_contra h; exact unaligned_of_bit1 _ (by simpa using h) ha
  unfold decodeBus
  rw [hw, hz]
  simp only [h0, h1]
  generalize busAddr t = a at *
  rcases aligned_offsets a h0 h1 with rfl | rfl | rfl | rfl | rfl | rfl | ⟨x, rfl⟩ | ⟨x, rfl⟩
  all_goals try rfl
  · show exec (decodeRead _) s = _
    rw [decodeRead_lo]; rfl
  · show exec (decodeRead _) s = _
    rw [decodeRead_hi]; rfl

end Sys2Proof.Machine
end

