-- ==== Sys2Proof/Laws/Frame.lean ====
section
/-! SUPPORT. For each internal step and command of the MU, one simp lemma for each field that it never changes. -/

namespace Sys2Proof.Machine

/-! `muStart` keeps to its own fields. -/

@[simp] theorem muStart_adcPending (m : MU) : (muStart m).adcPending = m.adcPending := by unfold muStart; split_ifs <;> rfl
@[simp] theorem muStart_blk (m : MU) : (muStart m).blk = m.blk := by unfold muStart; split_ifs <;> rfl
@[simp] theorem muStart_tap (m : MU) : (muStart m).tap = m.tap := by unfold muStart; split_ifs <;> rfl
@[simp] theorem muStart_tapIdx (m : MU) : (muStart m).tapIdx = m.tapIdx := by unfold muStart; split_ifs <;> rfl
@[simp] theorem muStart_procBusy (m : MU) : (muStart m).procBusy = m.procBusy := by unfold muStart; split_ifs <;> rfl
@[simp] theorem muStart_procCnt (m : MU) : (muStart m).procCnt = m.procCnt := by unfold muStart; split_ifs <;> rfl
@[simp] theorem muStart_resPeak (m : MU) : (muStart m).resPeak = m.resPeak := by unfold muStart; split_ifs <;> rfl
@[simp] theorem muStart_resRms (m : MU) : (muStart m).resRms = m.resRms := by unfold muStart; split_ifs <;> rfl
@[simp] theorem muStart_resFreq (m : MU) : (muStart m).resFreq = m.resFreq := by unfold muStart; split_ifs <;> rfl
@[simp] theorem muStart_resValid (m : MU) : (muStart m).resValid = m.resValid := by unfold muStart; split_ifs <;> rfl
@[simp] theorem muStart_maPeak (m : MU) : (muStart m).maPeak = m.maPeak := by unfold muStart; split_ifs <;> rfl
@[simp] theorem muStart_maRms (m : MU) : (muStart m).maRms = m.maRms := by unfold muStart; split_ifs <;> rfl
@[simp] theorem muStart_maIdx (m : MU) : (muStart m).maIdx = m.maIdx := by unfold muStart; split_ifs <;> rfl
@[simp] theorem muStart_maCnt (m : MU) : (muStart m).maCnt = m.maCnt := by unfold muStart; split_ifs <;> rfl
@[simp] theorem muStart_txState (m : MU) : (muStart m).txState = m.txState := by unfold muStart; split_ifs <;> rfl
@[simp] theorem muStart_txShift (m : MU) : (muStart m).txShift = m.txShift := by unfold muStart; split_ifs <;> rfl
@[simp] theorem muStart_txBitcnt (m : MU) : (muStart m).txBitcnt = m.txBitcnt := by unfold muStart; split_ifs <;> rfl
@[simp] theorem muStart_txCyc (m : MU) : (muStart m).txCyc = m.txCyc := by unfold muStart; split_ifs <;> rfl
@[simp] theorem muStart_csN (m : MU) : (muStart m).csN = m.csN := by unfold muStart; split_ifs <;> rfl
@[simp] theorem muStart_sclk (m : MU) : (muStart m).sclk = m.sclk := by unfold muStart; split_ifs <;> rfl
@[simp] theorem muStart_mosi (m : MU) : (muStart m).mosi = m.mosi := by unfold muStart; split_ifs <;> rfl
@[simp] theorem muStart_tickMissed (m : MU) : (muStart m).tickMissed = m.tickMissed := by unfold muStart; split_ifs <;> rfl
@[simp] theorem muStart_sqOvf (m : MU) : (muStart m).sqOvf = m.sqOvf := by unfold muStart; split_ifs <;> rfl
@[simp] theorem muStart_adcStart (m : MU) : (muStart m).adcStart = m.adcStart := by unfold muStart; split_ifs <;> rfl
@[simp] theorem muStart_busResp (m : MU) : (muStart m).busResp = m.busResp := by unfold muStart; split_ifs <;> rfl

/-! `muProcess` keeps to its own fields. -/

@[simp] theorem muProcess_tickEn (c : Config) (m : MU) : (muProcess c m).tickEn = m.tickEn := by unfold muProcess; split_ifs <;> rfl
@[simp] theorem muProcess_tcnt (c : Config) (m : MU) : (muProcess c m).tcnt = m.tcnt := by unfold muProcess; split_ifs <;> rfl
@[simp] theorem muProcess_convEn (c : Config) (m : MU) : (muProcess c m).convEn = m.convEn := by unfold muProcess; split_ifs <;> rfl
@[simp] theorem muProcess_adcPending (c : Config) (m : MU) : (muProcess c m).adcPending = m.adcPending := by unfold muProcess; split_ifs <;> rfl
@[simp] theorem muProcess_idx (c : Config) (m : MU) : (muProcess c m).idx = m.idx := by unfold muProcess; split_ifs <;> rfl
@[simp] theorem muProcess_blk (c : Config) (m : MU) : (muProcess c m).blk = m.blk := by unfold muProcess; split_ifs <;> rfl
@[simp] theorem muProcess_tap (c : Config) (m : MU) : (muProcess c m).tap = m.tap := by unfold muProcess; split_ifs <;> rfl
@[simp] theorem muProcess_tapIdx (c : Config) (m : MU) : (muProcess c m).tapIdx = m.tapIdx := by unfold muProcess; split_ifs <;> rfl
@[simp] theorem muProcess_resPeak (c : Config) (m : MU) : (muProcess c m).resPeak = m.resPeak := by unfold muProcess; split_ifs <;> rfl
@[simp] theorem muProcess_resRms (c : Config) (m : MU) : (muProcess c m).resRms = m.resRms := by unfold muProcess; split_ifs <;> rfl
@[simp] theorem muProcess_resFreq (c : Config) (m : MU) : (muProcess c m).resFreq = m.resFreq := by unfold muProcess; split_ifs <;> rfl
@[simp] theorem muProcess_resValid (c : Config) (m : MU) : (muProcess c m).resValid = m.resValid := by unfold muProcess; split_ifs <;> rfl
@[simp] theorem muProcess_maPeak (c : Config) (m : MU) : (muProcess c m).maPeak = m.maPeak := by unfold muProcess; split_ifs <;> rfl
@[simp] theorem muProcess_maRms (c : Config) (m : MU) : (muProcess c m).maRms = m.maRms := by unfold muProcess; split_ifs <;> rfl
@[simp] theorem muProcess_maIdx (c : Config) (m : MU) : (muProcess c m).maIdx = m.maIdx := by unfold muProcess; split_ifs <;> rfl
@[simp] theorem muProcess_maCnt (c : Config) (m : MU) : (muProcess c m).maCnt = m.maCnt := by unfold muProcess; split_ifs <;> rfl
@[simp] theorem muProcess_txState (c : Config) (m : MU) : (muProcess c m).txState = m.txState := by unfold muProcess; split_ifs <;> rfl
@[simp] theorem muProcess_txShift (c : Config) (m : MU) : (muProcess c m).txShift = m.txShift := by unfold muProcess; split_ifs <;> rfl
@[simp] theorem muProcess_txBitcnt (c : Config) (m : MU) : (muProcess c m).txBitcnt = m.txBitcnt := by unfold muProcess; split_ifs <;> rfl
@[simp] theorem muProcess_txCyc (c : Config) (m : MU) : (muProcess c m).txCyc = m.txCyc := by unfold muProcess; split_ifs <;> rfl
@[simp] theorem muProcess_csN (c : Config) (m : MU) : (muProcess c m).csN = m.csN := by unfold muProcess; split_ifs <;> rfl
@[simp] theorem muProcess_sclk (c : Config) (m : MU) : (muProcess c m).sclk = m.sclk := by unfold muProcess; split_ifs <;> rfl
@[simp] theorem muProcess_mosi (c : Config) (m : MU) : (muProcess c m).mosi = m.mosi := by unfold muProcess; split_ifs <;> rfl
@[simp] theorem muProcess_tickMissed (c : Config) (m : MU) : (muProcess c m).tickMissed = m.tickMissed := by unfold muProcess; split_ifs <;> rfl
@[simp] theorem muProcess_sqOvf (c : Config) (m : MU) : (muProcess c m).sqOvf = m.sqOvf := by unfold muProcess; split_ifs <;> rfl
@[simp] theorem muProcess_adcStart (c : Config) (m : MU) : (muProcess c m).adcStart = m.adcStart := by unfold muProcess; split_ifs <;> rfl
@[simp] theorem muProcess_busResp (c : Config) (m : MU) : (muProcess c m).busResp = m.busResp := by unfold muProcess; split_ifs <;> rfl

/-! `muSend` keeps to its own fields. -/

@[simp] theorem muSend_tickEn (m : MU) : ((muSend m).1).tickEn = m.tickEn := by unfold muSend; split_ifs <;> rfl
@[simp] theorem muSend_tcnt (m : MU) : ((muSend m).1).tcnt = m.tcnt := by unfold muSend; split_ifs <;> rfl
@[simp] theorem muSend_convEn (m : MU) : ((muSend m).1).convEn = m.convEn := by unfold muSend; split_ifs <;> rfl
@[simp] theorem muSend_adcPending (m : MU) : ((muSend m).1).adcPending = m.adcPending := by unfold muSend; split_ifs <;> rfl
@[simp] theorem muSend_idx (m : MU) : ((muSend m).1).idx = m.idx := by unfold muSend; split_ifs <;> rfl
@[simp] theorem muSend_blk (m : MU) : ((muSend m).1).blk = m.blk := by unfold muSend; split_ifs <;> rfl
@[simp] theorem muSend_ready (m : MU) : ((muSend m).1).ready = m.ready := by unfold muSend; split_ifs <;> rfl
@[simp] theorem muSend_tap (m : MU) : ((muSend m).1).tap = m.tap := by unfold muSend; split_ifs <;> rfl
@[simp] theorem muSend_tapIdx (m : MU) : ((muSend m).1).tapIdx = m.tapIdx := by unfold muSend; split_ifs <;> rfl
@[simp] theorem muSend_procBusy (m : MU) : ((muSend m).1).procBusy = m.procBusy := by unfold muSend; split_ifs <;> rfl
@[simp] theorem muSend_procCnt (m : MU) : ((muSend m).1).procCnt = m.procCnt := by unfold muSend; split_ifs <;> rfl
@[simp] theorem muSend_resPeak (m : MU) : ((muSend m).1).resPeak = m.resPeak := by unfold muSend; split_ifs <;> rfl
@[simp] theorem muSend_resRms (m : MU) : ((muSend m).1).resRms = m.resRms := by unfold muSend; split_ifs <;> rfl
@[simp] theorem muSend_resFreq (m : MU) : ((muSend m).1).resFreq = m.resFreq := by unfold muSend; split_ifs <;> rfl
@[simp] theorem muSend_resValid (m : MU) : ((muSend m).1).resValid = m.resValid := by unfold muSend; split_ifs <;> rfl
@[simp] theorem muSend_maPeak (m : MU) : ((muSend m).1).maPeak = m.maPeak := by unfold muSend; split_ifs <;> rfl
@[simp] theorem muSend_maRms (m : MU) : ((muSend m).1).maRms = m.maRms := by unfold muSend; split_ifs <;> rfl
@[simp] theorem muSend_maIdx (m : MU) : ((muSend m).1).maIdx = m.maIdx := by unfold muSend; split_ifs <;> rfl
@[simp] theorem muSend_maCnt (m : MU) : ((muSend m).1).maCnt = m.maCnt := by unfold muSend; split_ifs <;> rfl
@[simp] theorem muSend_tickMissed (m : MU) : ((muSend m).1).tickMissed = m.tickMissed := by unfold muSend; split_ifs <;> rfl
@[simp] theorem muSend_sqOvf (m : MU) : ((muSend m).1).sqOvf = m.sqOvf := by unfold muSend; split_ifs <;> rfl
@[simp] theorem muSend_adcStart (m : MU) : ((muSend m).1).adcStart = m.adcStart := by unfold muSend; split_ifs <;> rfl
@[simp] theorem muSend_busResp (m : MU) : ((muSend m).1).busResp = m.busResp := by unfold muSend; split_ifs <;> rfl

/-! `tick` keeps to its own fields. -/

@[simp] theorem tick_tickEn (m : MU) : (tick m).tickEn = m.tickEn := by unfold tick; split_ifs <;> rfl
@[simp] theorem tick_tcnt (m : MU) : (tick m).tcnt = m.tcnt := by unfold tick; split_ifs <;> rfl
@[simp] theorem tick_convEn (m : MU) : (tick m).convEn = m.convEn := by unfold tick; split_ifs <;> rfl
@[simp] theorem tick_idx (m : MU) : (tick m).idx = m.idx := by unfold tick; split_ifs <;> rfl
@[simp] theorem tick_blk (m : MU) : (tick m).blk = m.blk := by unfold tick; split_ifs <;> rfl
@[simp] theorem tick_ready (m : MU) : (tick m).ready = m.ready := by unfold tick; split_ifs <;> rfl
@[simp] theorem tick_tap (m : MU) : (tick m).tap = m.tap := by unfold tick; split_ifs <;> rfl
@[simp] theorem tick_tapIdx (m : MU) : (tick m).tapIdx = m.tapIdx := by unfold tick; split_ifs <;> rfl
@[simp] theorem tick_procBusy (m : MU) : (tick m).procBusy = m.procBusy := by unfold tick; split_ifs <;> rfl
@[simp] theorem tick_procCnt (m : MU) : (tick m).procCnt = m.procCnt := by unfold tick; split_ifs <;> rfl
@[simp] theorem tick_resPeak (m : MU) : (tick m).resPeak = m.resPeak := by unfold tick; split_ifs <;> rfl
@[simp] theorem tick_resRms (m : MU) : (tick m).resRms = m.resRms := by unfold tick; split_ifs <;> rfl
@[simp] theorem tick_resFreq (m : MU) : (tick m).resFreq = m.resFreq := by unfold tick; split_ifs <;> rfl
@[simp] theorem tick_resValid (m : MU) : (tick m).resValid = m.resValid := by unfold tick; split_ifs <;> rfl
@[simp] theorem tick_maPeak (m : MU) : (tick m).maPeak = m.maPeak := by unfold tick; split_ifs <;> rfl
@[simp] theorem tick_maRms (m : MU) : (tick m).maRms = m.maRms := by unfold tick; split_ifs <;> rfl
@[simp] theorem tick_maIdx (m : MU) : (tick m).maIdx = m.maIdx := by unfold tick; split_ifs <;> rfl
@[simp] theorem tick_maCnt (m : MU) : (tick m).maCnt = m.maCnt := by unfold tick; split_ifs <;> rfl
@[simp] theorem tick_txState (m : MU) : (tick m).txState = m.txState := by unfold tick; split_ifs <;> rfl
@[simp] theorem tick_txShift (m : MU) : (tick m).txShift = m.txShift := by unfold tick; split_ifs <;> rfl
@[simp] theorem tick_txBitcnt (m : MU) : (tick m).txBitcnt = m.txBitcnt := by unfold tick; split_ifs <;> rfl
@[simp] theorem tick_txCyc (m : MU) : (tick m).txCyc = m.txCyc := by unfold tick; split_ifs <;> rfl
@[simp] theorem tick_csN (m : MU) : (tick m).csN = m.csN := by unfold tick; split_ifs <;> rfl
@[simp] theorem tick_sclk (m : MU) : (tick m).sclk = m.sclk := by unfold tick; split_ifs <;> rfl
@[simp] theorem tick_mosi (m : MU) : (tick m).mosi = m.mosi := by unfold tick; split_ifs <;> rfl
@[simp] theorem tick_cmdErr (m : MU) : (tick m).cmdErr = m.cmdErr := by unfold tick; split_ifs <;> rfl
@[simp] theorem tick_sqOvf (m : MU) : (tick m).sqOvf = m.sqOvf := by unfold tick; split_ifs <;> rfl
@[simp] theorem tick_busResp (m : MU) : (tick m).busResp = m.busResp := by unfold tick; split_ifs <;> rfl

/-! `timerCount` keeps to its own fields. -/

@[simp] theorem timerCount_tickEn (c : Config) (m : MU) : (timerCount c m).tickEn = m.tickEn := by unfold timerCount; split_ifs <;> simp
@[simp] theorem timerCount_convEn (c : Config) (m : MU) : (timerCount c m).convEn = m.convEn := by unfold timerCount; split_ifs <;> simp
@[simp] theorem timerCount_idx (c : Config) (m : MU) : (timerCount c m).idx = m.idx := by unfold timerCount; split_ifs <;> simp
@[simp] theorem timerCount_blk (c : Config) (m : MU) : (timerCount c m).blk = m.blk := by unfold timerCount; split_ifs <;> simp
@[simp] theorem timerCount_ready (c : Config) (m : MU) : (timerCount c m).ready = m.ready := by unfold timerCount; split_ifs <;> simp
@[simp] theorem timerCount_tap (c : Config) (m : MU) : (timerCount c m).tap = m.tap := by unfold timerCount; split_ifs <;> simp
@[simp] theorem timerCount_tapIdx (c : Config) (m : MU) : (timerCount c m).tapIdx = m.tapIdx := by unfold timerCount; split_ifs <;> simp
@[simp] theorem timerCount_procBusy (c : Config) (m : MU) : (timerCount c m).procBusy = m.procBusy := by unfold timerCount; split_ifs <;> simp
@[simp] theorem timerCount_procCnt (c : Config) (m : MU) : (timerCount c m).procCnt = m.procCnt := by unfold timerCount; split_ifs <;> simp
@[simp] theorem timerCount_resPeak (c : Config) (m : MU) : (timerCount c m).resPeak = m.resPeak := by unfold timerCount; split_ifs <;> simp
@[simp] theorem timerCount_resRms (c : Config) (m : MU) : (timerCount c m).resRms = m.resRms := by unfold timerCount; split_ifs <;> simp
@[simp] theorem timerCount_resFreq (c : Config) (m : MU) : (timerCount c m).resFreq = m.resFreq := by unfold timerCount; split_ifs <;> simp
@[simp] theorem timerCount_resValid (c : Config) (m : MU) : (timerCount c m).resValid = m.resValid := by unfold timerCount; split_ifs <;> simp
@[simp] theorem timerCount_maPeak (c : Config) (m : MU) : (timerCount c m).maPeak = m.maPeak := by unfold timerCount; split_ifs <;> simp
@[simp] theorem timerCount_maRms (c : Config) (m : MU) : (timerCount c m).maRms = m.maRms := by unfold timerCount; split_ifs <;> simp
@[simp] theorem timerCount_maIdx (c : Config) (m : MU) : (timerCount c m).maIdx = m.maIdx := by unfold timerCount; split_ifs <;> simp
@[simp] theorem timerCount_maCnt (c : Config) (m : MU) : (timerCount c m).maCnt = m.maCnt := by unfold timerCount; split_ifs <;> simp
@[simp] theorem timerCount_txState (c : Config) (m : MU) : (timerCount c m).txState = m.txState := by unfold timerCount; split_ifs <;> simp
@[simp] theorem timerCount_txShift (c : Config) (m : MU) : (timerCount c m).txShift = m.txShift := by unfold timerCount; split_ifs <;> simp
@[simp] theorem timerCount_txBitcnt (c : Config) (m : MU) : (timerCount c m).txBitcnt = m.txBitcnt := by unfold timerCount; split_ifs <;> simp
@[simp] theorem timerCount_txCyc (c : Config) (m : MU) : (timerCount c m).txCyc = m.txCyc := by unfold timerCount; split_ifs <;> simp
@[simp] theorem timerCount_csN (c : Config) (m : MU) : (timerCount c m).csN = m.csN := by unfold timerCount; split_ifs <;> simp
@[simp] theorem timerCount_sclk (c : Config) (m : MU) : (timerCount c m).sclk = m.sclk := by unfold timerCount; split_ifs <;> simp
@[simp] theorem timerCount_mosi (c : Config) (m : MU) : (timerCount c m).mosi = m.mosi := by unfold timerCount; split_ifs <;> simp
@[simp] theorem timerCount_cmdErr (c : Config) (m : MU) : (timerCount c m).cmdErr = m.cmdErr := by unfold timerCount; split_ifs <;> simp
@[simp] theorem timerCount_sqOvf (c : Config) (m : MU) : (timerCount c m).sqOvf = m.sqOvf := by unfold timerCount; split_ifs <;> simp
@[simp] theorem timerCount_busResp (c : Config) (m : MU) : (timerCount c m).busResp = m.busResp := by unfold timerCount; split_ifs <;> simp

/-! `adcDone` keeps to its own fields. -/

@[simp] theorem adcDone_tap (c : Config) (v : Reading) (m : MU) : (adcDone c v m).tap = m.tap := by simp only [adcDone]; split_ifs <;> rfl
@[simp] theorem adcDone_tapIdx (c : Config) (v : Reading) (m : MU) : (adcDone c v m).tapIdx = m.tapIdx := by simp only [adcDone]; split_ifs <;> rfl
@[simp] theorem adcDone_procBusy (c : Config) (v : Reading) (m : MU) : (adcDone c v m).procBusy = m.procBusy := by simp only [adcDone]; split_ifs <;> rfl
@[simp] theorem adcDone_procCnt (c : Config) (v : Reading) (m : MU) : (adcDone c v m).procCnt = m.procCnt := by simp only [adcDone]; split_ifs <;> rfl
@[simp] theorem adcDone_resPeak (c : Config) (v : Reading) (m : MU) : (adcDone c v m).resPeak = m.resPeak := by simp only [adcDone]; split_ifs <;> rfl
@[simp] theorem adcDone_resRms (c : Config) (v : Reading) (m : MU) : (adcDone c v m).resRms = m.resRms := by simp only [adcDone]; split_ifs <;> rfl
@[simp] theorem adcDone_resFreq (c : Config) (v : Reading) (m : MU) : (adcDone c v m).resFreq = m.resFreq := by simp only [adcDone]; split_ifs <;> rfl
@[simp] theorem adcDone_resValid (c : Config) (v : Reading) (m : MU) : (adcDone c v m).resValid = m.resValid := by simp only [adcDone]; split_ifs <;> rfl
@[simp] theorem adcDone_maPeak (c : Config) (v : Reading) (m : MU) : (adcDone c v m).maPeak = m.maPeak := by simp only [adcDone]; split_ifs <;> rfl
@[simp] theorem adcDone_maRms (c : Config) (v : Reading) (m : MU) : (adcDone c v m).maRms = m.maRms := by simp only [adcDone]; split_ifs <;> rfl
@[simp] theorem adcDone_maIdx (c : Config) (v : Reading) (m : MU) : (adcDone c v m).maIdx = m.maIdx := by simp only [adcDone]; split_ifs <;> rfl
@[simp] theorem adcDone_maCnt (c : Config) (v : Reading) (m : MU) : (adcDone c v m).maCnt = m.maCnt := by simp only [adcDone]; split_ifs <;> rfl
@[simp] theorem adcDone_txState (c : Config) (v : Reading) (m : MU) : (adcDone c v m).txState = m.txState := by simp only [adcDone]; split_ifs <;> rfl
@[simp] theorem adcDone_txShift (c : Config) (v : Reading) (m : MU) : (adcDone c v m).txShift = m.txShift := by simp only [adcDone]; split_ifs <;> rfl
@[simp] theorem adcDone_txBitcnt (c : Config) (v : Reading) (m : MU) : (adcDone c v m).txBitcnt = m.txBitcnt := by simp only [adcDone]; split_ifs <;> rfl
@[simp] theorem adcDone_txCyc (c : Config) (v : Reading) (m : MU) : (adcDone c v m).txCyc = m.txCyc := by simp only [adcDone]; split_ifs <;> rfl
@[simp] theorem adcDone_csN (c : Config) (v : Reading) (m : MU) : (adcDone c v m).csN = m.csN := by simp only [adcDone]; split_ifs <;> rfl
@[simp] theorem adcDone_sclk (c : Config) (v : Reading) (m : MU) : (adcDone c v m).sclk = m.sclk := by simp only [adcDone]; split_ifs <;> rfl
@[simp] theorem adcDone_mosi (c : Config) (v : Reading) (m : MU) : (adcDone c v m).mosi = m.mosi := by simp only [adcDone]; split_ifs <;> rfl
@[simp] theorem adcDone_cmdErr (c : Config) (v : Reading) (m : MU) : (adcDone c v m).cmdErr = m.cmdErr := by simp only [adcDone]; split_ifs <;> rfl
@[simp] theorem adcDone_tickMissed (c : Config) (v : Reading) (m : MU) : (adcDone c v m).tickMissed = m.tickMissed := by simp only [adcDone]; split_ifs <;> rfl
@[simp] theorem adcDone_sqOvf (c : Config) (v : Reading) (m : MU) : (adcDone c v m).sqOvf = m.sqOvf := by simp only [adcDone]; split_ifs <;> rfl
@[simp] theorem adcDone_adcStart (c : Config) (v : Reading) (m : MU) : (adcDone c v m).adcStart = m.adcStart := by simp only [adcDone]; split_ifs <;> rfl
@[simp] theorem adcDone_busResp (c : Config) (v : Reading) (m : MU) : (adcDone c v m).busResp = m.busResp := by simp only [adcDone]; split_ifs <;> rfl

/-! `procDone` keeps to its own fields. -/

@[simp] theorem procDone_tickEn (c : Config) (m : MU) : (procDone c m).tickEn = m.tickEn := by rfl
@[simp] theorem procDone_tcnt (c : Config) (m : MU) : (procDone c m).tcnt = m.tcnt := by rfl
@[simp] theorem procDone_convEn (c : Config) (m : MU) : (procDone c m).convEn = m.convEn := by rfl
@[simp] theorem procDone_adcPending (c : Config) (m : MU) : (procDone c m).adcPending = m.adcPending := by rfl
@[simp] theorem procDone_idx (c : Config) (m : MU) : (procDone c m).idx = m.idx := by rfl
@[simp] theorem procDone_blk (c : Config) (m : MU) : (procDone c m).blk = m.blk := by rfl
@[simp] theorem procDone_ready (c : Config) (m : MU) : (procDone c m).ready = m.ready := by rfl
@[simp] theorem procDone_procCnt (c : Config) (m : MU) : (procDone c m).procCnt = m.procCnt := by rfl
@[simp] theorem procDone_txState (c : Config) (m : MU) : (procDone c m).txState = m.txState := by rfl
@[simp] theorem procDone_txShift (c : Config) (m : MU) : (procDone c m).txShift = m.txShift := by rfl
@[simp] theorem procDone_txBitcnt (c : Config) (m : MU) : (procDone c m).txBitcnt = m.txBitcnt := by rfl
@[simp] theorem procDone_txCyc (c : Config) (m : MU) : (procDone c m).txCyc = m.txCyc := by rfl
@[simp] theorem procDone_csN (c : Config) (m : MU) : (procDone c m).csN = m.csN := by rfl
@[simp] theorem procDone_sclk (c : Config) (m : MU) : (procDone c m).sclk = m.sclk := by rfl
@[simp] theorem procDone_mosi (c : Config) (m : MU) : (procDone c m).mosi = m.mosi := by rfl
@[simp] theorem procDone_cmdErr (c : Config) (m : MU) : (procDone c m).cmdErr = m.cmdErr := by rfl
@[simp] theorem procDone_tickMissed (c : Config) (m : MU) : (procDone c m).tickMissed = m.tickMissed := by rfl
@[simp] theorem procDone_adcStart (c : Config) (m : MU) : (procDone c m).adcStart = m.adcStart := by rfl
@[simp] theorem procDone_busResp (c : Config) (m : MU) : (procDone c m).busResp = m.busResp := by rfl

/-! `procCount` keeps to its own fields. -/

@[simp] theorem procCount_tickEn (c : Config) (m : MU) : (procCount c m).tickEn = m.tickEn := by simp only [procCount]; split_ifs <;> rfl
@[simp] theorem procCount_tcnt (c : Config) (m : MU) : (procCount c m).tcnt = m.tcnt := by simp only [procCount]; split_ifs <;> rfl
@[simp] theorem procCount_convEn (c : Config) (m : MU) : (procCount c m).convEn = m.convEn := by simp only [procCount]; split_ifs <;> rfl
@[simp] theorem procCount_adcPending (c : Config) (m : MU) : (procCount c m).adcPending = m.adcPending := by simp only [procCount]; split_ifs <;> rfl
@[simp] theorem procCount_idx (c : Config) (m : MU) : (procCount c m).idx = m.idx := by simp only [procCount]; split_ifs <;> rfl
@[simp] theorem procCount_blk (c : Config) (m : MU) : (procCount c m).blk = m.blk := by simp only [procCount]; split_ifs <;> rfl
@[simp] theorem procCount_ready (c : Config) (m : MU) : (procCount c m).ready = m.ready := by simp only [procCount]; split_ifs <;> rfl
@[simp] theorem procCount_txState (c : Config) (m : MU) : (procCount c m).txState = m.txState := by simp only [procCount]; split_ifs <;> rfl
@[simp] theorem procCount_txShift (c : Config) (m : MU) : (procCount c m).txShift = m.txShift := by simp only [procCount]; split_ifs <;> rfl
@[simp] theorem procCount_txBitcnt (c : Config) (m : MU) : (procCount c m).txBitcnt = m.txBitcnt := by simp only [procCount]; split_ifs <;> rfl
@[simp] theorem procCount_txCyc (c : Config) (m : MU) : (procCount c m).txCyc = m.txCyc := by simp only [procCount]; split_ifs <;> rfl
@[simp] theorem procCount_csN (c : Config) (m : MU) : (procCount c m).csN = m.csN := by simp only [procCount]; split_ifs <;> rfl
@[simp] theorem procCount_sclk (c : Config) (m : MU) : (procCount c m).sclk = m.sclk := by simp only [procCount]; split_ifs <;> rfl
@[simp] theorem procCount_mosi (c : Config) (m : MU) : (procCount c m).mosi = m.mosi := by simp only [procCount]; split_ifs <;> rfl
@[simp] theorem procCount_cmdErr (c : Config) (m : MU) : (procCount c m).cmdErr = m.cmdErr := by simp only [procCount]; split_ifs <;> rfl
@[simp] theorem procCount_tickMissed (c : Config) (m : MU) : (procCount c m).tickMissed = m.tickMissed := by simp only [procCount]; split_ifs <;> rfl
@[simp] theorem procCount_adcStart (c : Config) (m : MU) : (procCount c m).adcStart = m.adcStart := by simp only [procCount]; split_ifs <;> rfl
@[simp] theorem procCount_busResp (c : Config) (m : MU) : (procCount c m).busResp = m.busResp := by simp only [procCount]; split_ifs <;> rfl

/-! `txLow` keeps to its own fields. -/

@[simp] theorem txLow_tickEn (c : Config) (m : MU) : ((txLow c m).1).tickEn = m.tickEn := by simp only [txLow, txWait]; split_ifs <;> rfl
@[simp] theorem txLow_tcnt (c : Config) (m : MU) : ((txLow c m).1).tcnt = m.tcnt := by simp only [txLow, txWait]; split_ifs <;> rfl
@[simp] theorem txLow_convEn (c : Config) (m : MU) : ((txLow c m).1).convEn = m.convEn := by simp only [txLow, txWait]; split_ifs <;> rfl
@[simp] theorem txLow_adcPending (c : Config) (m : MU) : ((txLow c m).1).adcPending = m.adcPending := by simp only [txLow, txWait]; split_ifs <;> rfl
@[simp] theorem txLow_idx (c : Config) (m : MU) : ((txLow c m).1).idx = m.idx := by simp only [txLow, txWait]; split_ifs <;> rfl
@[simp] theorem txLow_blk (c : Config) (m : MU) : ((txLow c m).1).blk = m.blk := by simp only [txLow, txWait]; split_ifs <;> rfl
@[simp] theorem txLow_ready (c : Config) (m : MU) : ((txLow c m).1).ready = m.ready := by simp only [txLow, txWait]; split_ifs <;> rfl
@[simp] theorem txLow_tap (c : Config) (m : MU) : ((txLow c m).1).tap = m.tap := by simp only [txLow, txWait]; split_ifs <;> rfl
@[simp] theorem txLow_tapIdx (c : Config) (m : MU) : ((txLow c m).1).tapIdx = m.tapIdx := by simp only [txLow, txWait]; split_ifs <;> rfl
@[simp] theorem txLow_procBusy (c : Config) (m : MU) : ((txLow c m).1).procBusy = m.procBusy := by simp only [txLow, txWait]; split_ifs <;> rfl
@[simp] theorem txLow_procCnt (c : Config) (m : MU) : ((txLow c m).1).procCnt = m.procCnt := by simp only [txLow, txWait]; split_ifs <;> rfl
@[simp] theorem txLow_resPeak (c : Config) (m : MU) : ((txLow c m).1).resPeak = m.resPeak := by simp only [txLow, txWait]; split_ifs <;> rfl
@[simp] theorem txLow_resRms (c : Config) (m : MU) : ((txLow c m).1).resRms = m.resRms := by simp only [txLow, txWait]; split_ifs <;> rfl
@[simp] theorem txLow_resFreq (c : Config) (m : MU) : ((txLow c m).1).resFreq = m.resFreq := by simp only [txLow, txWait]; split_ifs <;> rfl
@[simp] theorem txLow_resValid (c : Config) (m : MU) : ((txLow c m).1).resValid = m.resValid := by simp only [txLow, txWait]; split_ifs <;> rfl
@[simp] theorem txLow_maPeak (c : Config) (m : MU) : ((txLow c m).1).maPeak = m.maPeak := by simp only [txLow, txWait]; split_ifs <;> rfl
@[simp] theorem txLow_maRms (c : Config) (m : MU) : ((txLow c m).1).maRms = m.maRms := by simp only [txLow, txWait]; split_ifs <;> rfl
@[simp] theorem txLow_maIdx (c : Config) (m : MU) : ((txLow c m).1).maIdx = m.maIdx := by simp only [txLow, txWait]; split_ifs <;> rfl
@[simp] theorem txLow_maCnt (c : Config) (m : MU) : ((txLow c m).1).maCnt = m.maCnt := by simp only [txLow, txWait]; split_ifs <;> rfl
@[simp] theorem txLow_cmdErr (c : Config) (m : MU) : ((txLow c m).1).cmdErr = m.cmdErr := by simp only [txLow, txWait]; split_ifs <;> rfl
@[simp] theorem txLow_tickMissed (c : Config) (m : MU) : ((txLow c m).1).tickMissed = m.tickMissed := by simp only [txLow, txWait]; split_ifs <;> rfl
@[simp] theorem txLow_sqOvf (c : Config) (m : MU) : ((txLow c m).1).sqOvf = m.sqOvf := by simp only [txLow, txWait]; split_ifs <;> rfl
@[simp] theorem txLow_adcStart (c : Config) (m : MU) : ((txLow c m).1).adcStart = m.adcStart := by simp only [txLow, txWait]; split_ifs <;> rfl
@[simp] theorem txLow_busResp (c : Config) (m : MU) : ((txLow c m).1).busResp = m.busResp := by simp only [txLow, txWait]; split_ifs <;> rfl

/-! `txAfterBits` keeps to its own fields. -/

@[simp] theorem txAfterBits_tickEn (c : Config) (m : MU) : ((txAfterBits c m).1).tickEn = m.tickEn := by simp only [txAfterBits, txFinish]; split_ifs <;> rfl
@[simp] theorem txAfterBits_tcnt (c : Config) (m : MU) : ((txAfterBits c m).1).tcnt = m.tcnt := by simp only [txAfterBits, txFinish]; split_ifs <;> rfl
@[simp] theorem txAfterBits_convEn (c : Config) (m : MU) : ((txAfterBits c m).1).convEn = m.convEn := by simp only [txAfterBits, txFinish]; split_ifs <;> rfl
@[simp] theorem txAfterBits_adcPending (c : Config) (m : MU) : ((txAfterBits c m).1).adcPending = m.adcPending := by simp only [txAfterBits, txFinish]; split_ifs <;> rfl
@[simp] theorem txAfterBits_idx (c : Config) (m : MU) : ((txAfterBits c m).1).idx = m.idx := by simp only [txAfterBits, txFinish]; split_ifs <;> rfl
@[simp] theorem txAfterBits_blk (c : Config) (m : MU) : ((txAfterBits c m).1).blk = m.blk := by simp only [txAfterBits, txFinish]; split_ifs <;> rfl
@[simp] theorem txAfterBits_ready (c : Config) (m : MU) : ((txAfterBits c m).1).ready = m.ready := by simp only [txAfterBits, txFinish]; split_ifs <;> rfl
@[simp] theorem txAfterBits_tap (c : Config) (m : MU) : ((txAfterBits c m).1).tap = m.tap := by simp only [txAfterBits, txFinish]; split_ifs <;> rfl
@[simp] theorem txAfterBits_tapIdx (c : Config) (m : MU) : ((txAfterBits c m).1).tapIdx = m.tapIdx := by simp only [txAfterBits, txFinish]; split_ifs <;> rfl
@[simp] theorem txAfterBits_procBusy (c : Config) (m : MU) : ((txAfterBits c m).1).procBusy = m.procBusy := by simp only [txAfterBits, txFinish]; split_ifs <;> rfl
@[simp] theorem txAfterBits_procCnt (c : Config) (m : MU) : ((txAfterBits c m).1).procCnt = m.procCnt := by simp only [txAfterBits, txFinish]; split_ifs <;> rfl
@[simp] theorem txAfterBits_resPeak (c : Config) (m : MU) : ((txAfterBits c m).1).resPeak = m.resPeak := by simp only [txAfterBits, txFinish]; split_ifs <;> rfl
@[simp] theorem txAfterBits_resRms (c : Config) (m : MU) : ((txAfterBits c m).1).resRms = m.resRms := by simp only [txAfterBits, txFinish]; split_ifs <;> rfl
@[simp] theorem txAfterBits_resFreq (c : Config) (m : MU) : ((txAfterBits c m).1).resFreq = m.resFreq := by simp only [txAfterBits, txFinish]; split_ifs <;> rfl
@[simp] theorem txAfterBits_resValid (c : Config) (m : MU) : ((txAfterBits c m).1).resValid = m.resValid := by simp only [txAfterBits, txFinish]; split_ifs <;> rfl
@[simp] theorem txAfterBits_maPeak (c : Config) (m : MU) : ((txAfterBits c m).1).maPeak = m.maPeak := by simp only [txAfterBits, txFinish]; split_ifs <;> rfl
@[simp] theorem txAfterBits_maRms (c : Config) (m : MU) : ((txAfterBits c m).1).maRms = m.maRms := by simp only [txAfterBits, txFinish]; split_ifs <;> rfl
@[simp] theorem txAfterBits_maIdx (c : Config) (m : MU) : ((txAfterBits c m).1).maIdx = m.maIdx := by simp only [txAfterBits, txFinish]; split_ifs <;> rfl
@[simp] theorem txAfterBits_maCnt (c : Config) (m : MU) : ((txAfterBits c m).1).maCnt = m.maCnt := by simp only [txAfterBits, txFinish]; split_ifs <;> rfl
@[simp] theorem txAfterBits_cmdErr (c : Config) (m : MU) : ((txAfterBits c m).1).cmdErr = m.cmdErr := by simp only [txAfterBits, txFinish]; split_ifs <;> rfl
@[simp] theorem txAfterBits_tickMissed (c : Config) (m : MU) : ((txAfterBits c m).1).tickMissed = m.tickMissed := by simp only [txAfterBits, txFinish]; split_ifs <;> rfl
@[simp] theorem txAfterBits_sqOvf (c : Config) (m : MU) : ((txAfterBits c m).1).sqOvf = m.sqOvf := by simp only [txAfterBits, txFinish]; split_ifs <;> rfl
@[simp] theorem txAfterBits_adcStart (c : Config) (m : MU) : ((txAfterBits c m).1).adcStart = m.adcStart := by simp only [txAfterBits, txFinish]; split_ifs <;> rfl
@[simp] theorem txAfterBits_busResp (c : Config) (m : MU) : ((txAfterBits c m).1).busResp = m.busResp := by simp only [txAfterBits, txFinish]; split_ifs <;> rfl

/-! `txHigh` keeps to its own fields. -/

@[simp] theorem txHigh_tickEn (c : Config) (m : MU) : ((txHigh c m).1).tickEn = m.tickEn := by simp only [txHigh, txWait]; split_ifs <;> simp
@[simp] theorem txHigh_tcnt (c : Config) (m : MU) : ((txHigh c m).1).tcnt = m.tcnt := by simp only [txHigh, txWait]; split_ifs <;> simp
@[simp] theorem txHigh_convEn (c : Config) (m : MU) : ((txHigh c m).1).convEn = m.convEn := by simp only [txHigh, txWait]; split_ifs <;> simp
@[simp] theorem txHigh_adcPending (c : Config) (m : MU) : ((txHigh c m).1).adcPending = m.adcPending := by simp only [txHigh, txWait]; split_ifs <;> simp
@[simp] theorem txHigh_idx (c : Config) (m : MU) : ((txHigh c m).1).idx = m.idx := by simp only [txHigh, txWait]; split_ifs <;> simp
@[simp] theorem txHigh_blk (c : Config) (m : MU) : ((txHigh c m).1).blk = m.blk := by simp only [txHigh, txWait]; split_ifs <;> simp
@[simp] theorem txHigh_ready (c : Config) (m : MU) : ((txHigh c m).1).ready = m.ready := by simp only [txHigh, txWait]; split_ifs <;> simp
@[simp] theorem txHigh_tap (c : Config) (m : MU) : ((txHigh c m).1).tap = m.tap := by simp only [txHigh, txWait]; split_ifs <;> simp
@[simp] theorem txHigh_tapIdx (c : Config) (m : MU) : ((txHigh c m).1).tapIdx = m.tapIdx := by simp only [txHigh, txWait]; split_ifs <;> simp
@[simp] theorem txHigh_procBusy (c : Config) (m : MU) : ((txHigh c m).1).procBusy = m.procBusy := by simp only [txHigh, txWait]; split_ifs <;> simp
@[simp] theorem txHigh_procCnt (c : Config) (m : MU) : ((txHigh c m).1).procCnt = m.procCnt := by simp only [txHigh, txWait]; split_ifs <;> simp
@[simp] theorem txHigh_resPeak (c : Config) (m : MU) : ((txHigh c m).1).resPeak = m.resPeak := by simp only [txHigh, txWait]; split_ifs <;> simp
@[simp] theorem txHigh_resRms (c : Config) (m : MU) : ((txHigh c m).1).resRms = m.resRms := by simp only [txHigh, txWait]; split_ifs <;> simp
@[simp] theorem txHigh_resFreq (c : Config) (m : MU) : ((txHigh c m).1).resFreq = m.resFreq := by simp only [txHigh, txWait]; split_ifs <;> simp
@[simp] theorem txHigh_resValid (c : Config) (m : MU) : ((txHigh c m).1).resValid = m.resValid := by simp only [txHigh, txWait]; split_ifs <;> simp
@[simp] theorem txHigh_maPeak (c : Config) (m : MU) : ((txHigh c m).1).maPeak = m.maPeak := by simp only [txHigh, txWait]; split_ifs <;> simp
@[simp] theorem txHigh_maRms (c : Config) (m : MU) : ((txHigh c m).1).maRms = m.maRms := by simp only [txHigh, txWait]; split_ifs <;> simp
@[simp] theorem txHigh_maIdx (c : Config) (m : MU) : ((txHigh c m).1).maIdx = m.maIdx := by simp only [txHigh, txWait]; split_ifs <;> simp
@[simp] theorem txHigh_maCnt (c : Config) (m : MU) : ((txHigh c m).1).maCnt = m.maCnt := by simp only [txHigh, txWait]; split_ifs <;> simp
@[simp] theorem txHigh_cmdErr (c : Config) (m : MU) : ((txHigh c m).1).cmdErr = m.cmdErr := by simp only [txHigh, txWait]; split_ifs <;> simp
@[simp] theorem txHigh_tickMissed (c : Config) (m : MU) : ((txHigh c m).1).tickMissed = m.tickMissed := by simp only [txHigh, txWait]; split_ifs <;> simp
@[simp] theorem txHigh_sqOvf (c : Config) (m : MU) : ((txHigh c m).1).sqOvf = m.sqOvf := by simp only [txHigh, txWait]; split_ifs <;> simp
@[simp] theorem txHigh_adcStart (c : Config) (m : MU) : ((txHigh c m).1).adcStart = m.adcStart := by simp only [txHigh, txWait]; split_ifs <;> simp
@[simp] theorem txHigh_busResp (c : Config) (m : MU) : ((txHigh c m).1).busResp = m.busResp := by simp only [txHigh, txWait]; split_ifs <;> simp

/-! `txStep` keeps to its own fields. -/

@[simp] theorem txStep_tickEn (c : Config) (m : MU) : ((txStep c m).1).tickEn = m.tickEn := by simp only [txStep, txFinish, txWait]; repeat' (first | split | simp)
@[simp] theorem txStep_tcnt (c : Config) (m : MU) : ((txStep c m).1).tcnt = m.tcnt := by simp only [txStep, txFinish, txWait]; repeat' (first | split | simp)
@[simp] theorem txStep_convEn (c : Config) (m : MU) : ((txStep c m).1).convEn = m.convEn := by simp only [txStep, txFinish, txWait]; repeat' (first | split | simp)
@[simp] theorem txStep_adcPending (c : Config) (m : MU) : ((txStep c m).1).adcPending = m.adcPending := by simp only [txStep, txFinish, txWait]; repeat' (first | split | simp)
@[simp] theorem txStep_idx (c : Config) (m : MU) : ((txStep c m).1).idx = m.idx := by simp only [txStep, txFinish, txWait]; repeat' (first | split | simp)
@[simp] theorem txStep_blk (c : Config) (m : MU) : ((txStep c m).1).blk = m.blk := by simp only [txStep, txFinish, txWait]; repeat' (first | split | simp)
@[simp] theorem txStep_ready (c : Config) (m : MU) : ((txStep c m).1).ready = m.ready := by simp only [txStep, txFinish, txWait]; repeat' (first | split | simp)
@[simp] theorem txStep_tap (c : Config) (m : MU) : ((txStep c m).1).tap = m.tap := by simp only [txStep, txFinish, txWait]; repeat' (first | split | simp)
@[simp] theorem txStep_tapIdx (c : Config) (m : MU) : ((txStep c m).1).tapIdx = m.tapIdx := by simp only [txStep, txFinish, txWait]; repeat' (first | split | simp)
@[simp] theorem txStep_procBusy (c : Config) (m : MU) : ((txStep c m).1).procBusy = m.procBusy := by simp only [txStep, txFinish, txWait]; repeat' (first | split | simp)
@[simp] theorem txStep_procCnt (c : Config) (m : MU) : ((txStep c m).1).procCnt = m.procCnt := by simp only [txStep, txFinish, txWait]; repeat' (first | split | simp)
@[simp] theorem txStep_resPeak (c : Config) (m : MU) : ((txStep c m).1).resPeak = m.resPeak := by simp only [txStep, txFinish, txWait]; repeat' (first | split | simp)
@[simp] theorem txStep_resRms (c : Config) (m : MU) : ((txStep c m).1).resRms = m.resRms := by simp only [txStep, txFinish, txWait]; repeat' (first | split | simp)
@[simp] theorem txStep_resFreq (c : Config) (m : MU) : ((txStep c m).1).resFreq = m.resFreq := by simp only [txStep, txFinish, txWait]; repeat' (first | split | simp)
@[simp] theorem txStep_resValid (c : Config) (m : MU) : ((txStep c m).1).resValid = m.resValid := by simp only [txStep, txFinish, txWait]; repeat' (first | split | simp)
@[simp] theorem txStep_maPeak (c : Config) (m : MU) : ((txStep c m).1).maPeak = m.maPeak := by simp only [txStep, txFinish, txWait]; repeat' (first | split | simp)
@[simp] theorem txStep_maRms (c : Config) (m : MU) : ((txStep c m).1).maRms = m.maRms := by simp only [txStep, txFinish, txWait]; repeat' (first | split | simp)
@[simp] theorem txStep_maIdx (c : Config) (m : MU) : ((txStep c m).1).maIdx = m.maIdx := by simp only [txStep, txFinish, txWait]; repeat' (first | split | simp)
@[simp] theorem txStep_maCnt (c : Config) (m : MU) : ((txStep c m).1).maCnt = m.maCnt := by simp only [txStep, txFinish, txWait]; repeat' (first | split | simp)
@[simp] theorem txStep_cmdErr (c : Config) (m : MU) : ((txStep c m).1).cmdErr = m.cmdErr := by simp only [txStep, txFinish, txWait]; repeat' (first | split | simp)
@[simp] theorem txStep_tickMissed (c : Config) (m : MU) : ((txStep c m).1).tickMissed = m.tickMissed := by simp only [txStep, txFinish, txWait]; repeat' (first | split | simp)
@[simp] theorem txStep_sqOvf (c : Config) (m : MU) : ((txStep c m).1).sqOvf = m.sqOvf := by simp only [txStep, txFinish, txWait]; repeat' (first | split | simp)
@[simp] theorem txStep_adcStart (c : Config) (m : MU) : ((txStep c m).1).adcStart = m.adcStart := by simp only [txStep, txFinish, txWait]; repeat' (first | split | simp)
@[simp] theorem txStep_busResp (c : Config) (m : MU) : ((txStep c m).1).busResp = m.busResp := by simp only [txStep, txFinish, txWait]; repeat' (first | split | simp)

end Sys2Proof.Machine
end

