-- ==== Sys2Proof/Laws/Cycle.lean ====
section
/-! SUPPORT. What each phase of an MU cycle, each cycle and each turn can do, said once: inversion lemmas that later proofs cite instead
of unfolding `step`. -/

namespace Sys2Proof.Machine

/-! ## Outcomes -/

@[simp] theorem andThen_next (s : State) (f : State → Host.Outcome State Fault Refusal) : andThen (.next s) f = f s := rfl

theorem andThen_eq_next {o : Host.Outcome State Fault Refusal} {f : State → Host.Outcome State Fault Refusal} {t : State} :
    andThen o f = .next t ↔ ∃ s, o = .next s ∧ f s = .next t := by
  cases o <;> simp [andThen]

/-! ## Instructions -/

/-- Every instruction completes. -/
theorem exec_next (i : Instr) (s : State) : ∃ t, exec i s = .next t := by
  cases i <;> exact ⟨_, rfl⟩

/-- The instruction is carried by the bus. -/
def onBus (i : Instr) : Prop :=
  match encode i with
  | .bus _ => True
  | .frame _ => False

theorem decodeCmd_onBus (d : Word) : onBus (decodeCmd d) := by
  unfold decodeCmd; repeat' split
  all_goals trivial

theorem decodeRead_onBus (a : Offset) : onBus (decodeRead a) := by
  unfold decodeRead; repeat' split
  all_goals trivial

theorem decodeWrite_onBus (a : Offset) (d : Word) : onBus (decodeWrite a d) := by
  unfold decodeWrite; repeat' split
  all_goals first | exact decodeCmd_onBus d | trivial

theorem decodeBus_onBus (t : BusWord) : onBus (decodeBus t) := by
  unfold decodeBus; repeat' split
  all_goals first | exact decodeRead_onBus _ | exact decodeWrite_onBus _ _ | trivial

/-- A transaction word never decodes to a frame, and its instruction does one of these things. -/
theorem exec_decodeBus_cases (t : BusWord) (s : State) :
    exec (decodeBus t) s = .next (busError s)
    ∨ (∃ a, exec (decodeBus t) s = .next (readRegister a s))
    ∨ exec (decodeBus t) s = .next (respondWrite s)
    ∨ (∃ d, decodeBus t = .wrStatus d ∧ exec (decodeBus t) s = .next (respondWrite (s.onMu (statusW1C d))))
    ∨ (∃ hi, decodeBus t = .start hi ∧ exec (decodeBus t) s = .next (respondWrite (s.onMu muStart)))
    ∨ (∃ hi, decodeBus t = .process hi ∧ exec (decodeBus t) s = .next (respondWrite (s.onMu (muProcess s.cfg))))
    ∨ (∃ hi, decodeBus t = .send hi ∧ exec (decodeBus t) s = .next (respondWrite (sendFrame s)))
    ∨ (∃ hi c, decodeBus t = .cmdReserved hi c ∧ exec (decodeBus t) s = .next (respondWrite (s.onMu setCmdErr))) := by
  have hb := decodeBus_onBus t
  cases h : decodeBus t with
  | busErrSizeB => exact .inl rfl
  | busErrSizeH => exact .inl rfl
  | busErrSizeR => exact .inl rfl
  | busErrAlign1 => exact .inl rfl
  | busErrAlign2 => exact .inl rfl
  | rdCmd => exact .inr (.inl ⟨_, rfl⟩)
  | rdStatus => exact .inr (.inl ⟨_, rfl⟩)
  | rdIndex => exact .inr (.inl ⟨_, rfl⟩)
  | rdPeak => exact .inr (.inl ⟨_, rfl⟩)
  | rdRms => exact .inr (.inl ⟨_, rfl⟩)
  | rdFreq => exact .inr (.inl ⟨_, rfl⟩)
  | rdUnmappedLo => exact .inr (.inl ⟨_, rfl⟩)
  | rdUnmappedHi => exact .inr (.inl ⟨_, rfl⟩)
  | nop => exact .inr (.inr (.inl rfl))
  | wrRoIndex => exact .inr (.inr (.inl rfl))
  | wrRoPeak => exact .inr (.inr (.inl rfl))
  | wrRoRms => exact .inr (.inr (.inl rfl))
  | wrRoFreq => exact .inr (.inr (.inl rfl))
  | wrUnmappedLo => exact .inr (.inr (.inl rfl))
  | wrUnmappedHi => exact .inr (.inr (.inl rfl))
  | wrStatus d => exact .inr (.inr (.inr (.inl ⟨d, rfl, rfl⟩)))
  | start hi => exact .inr (.inr (.inr (.inr (.inl ⟨hi, rfl, rfl⟩))))
  | process hi => exact .inr (.inr (.inr (.inr (.inr (.inl ⟨hi, rfl, rfl⟩)))))
  | send hi => exact .inr (.inr (.inr (.inr (.inr (.inr (.inl ⟨hi, rfl, rfl⟩))))))
  | cmdReserved hi c => exact .inr (.inr (.inr (.inr (.inr (.inr (.inr ⟨hi, c, rfl, rfl⟩))))))
  | frameMeas r p q f => rw [h] at hb; exact hb.elim
  | frameBad c r p q f => rw [h] at hb; exact hb.elim

/-! ## The converter -/

/-- A draw changes only the list and the counter of the draws. -/
theorem drawAnswer_snd (s : State) : ∃ ds n, (drawAnswer s).2 = { s with adcDraws := ds, drawCnt := n } := by
  unfold drawAnswer
  split <;> exact ⟨_, _, rfl⟩

/-- An `adc_start` changes only the converter and the draws. -/
theorem startConverter_eq (s : State) :
    ∃ a ds n, startConverter s = { s with adc := a, adcDraws := ds, drawCnt := n } := by
  obtain ⟨ds, n, h⟩ := drawAnswer_snd s
  exact ⟨(drawAnswer s).1.map (fun x => { left := x.latency, reading := x.reading }), ds, n, by simp only [startConverter, h]⟩

/-! ## The phases of an MU cycle -/

/-- Position (2): one ADC_DONE or none, and the converter moves on. -/
theorem adcPhase_eq (stray : Option Reading) (s : State) :
    ∃ a, adcPhase stray s = { s with adc := a } ∨ ∃ v, adcPhase stray s = { s with adc := a, mu := adcDone s.cfg (adcPort s.cfg v) s.mu } := by
  unfold adcPhase
  refine ⟨(converterCycle s.adc).2, ?_⟩
  cases h : ((converterCycle s.adc).1.or stray) with
  | none => left; simp only [h]
  | some v => right; exact ⟨v, by simp only [h]; rfl⟩

/-- Position (3): TIMER_COUNT; the rest is the converter's. -/
theorem timerPhase_eq (s : State) :
    ∃ a ds n, timerPhase s = { s with mu := timerCount s.cfg s.mu, adc := a, adcDraws := ds, drawCnt := n } := by
  unfold timerPhase
  by_cases h : (s.onMu (timerCount s.cfg)).mu.adcStart = true
  · obtain ⟨a, ds, n, e⟩ := startConverter_eq (s.onMu (timerCount s.cfg))
    exact ⟨a, ds, n, by simp only [h, if_true, e]; rfl⟩
  · exact ⟨s.adc, s.adcDraws, s.drawCnt, by simp only [h]; rfl⟩

/-- Positions (2) to (5), on the MU alone; `v` is what ADC_DONE brings. -/
def finishMu (c : Config) (m0 : MU) (v : Option Reading) (m : MU) : MU × List LinkEvent :=
  let m2 := match v with | none => m | some v => adcDone c (adcPort c v) m
  let m3 := timerCount c m2
  let m4 := if m0.procBusy then procCount c m3 else m3
  if txBusy m0 then txStep c m4 else (m4, [])

/-- The order of the phases on the MU: one ADC_DONE or none, TIMER_COUNT, the processing engine, the transmitter. -/
theorem finishMu_eq (c : Config) (m0 : MU) (v : Option Reading) (m : MU) :
    ∃ m2 m4, (m2 = m ∨ ∃ r, m2 = adcDone c (adcPort c r) m)
      ∧ ((m0.procBusy = false ∧ m4 = timerCount c m2) ∨ (m0.procBusy = true ∧ m4 = procCount c (timerCount c m2)))
      ∧ ((txBusy m0 = false ∧ finishMu c m0 v m = (m4, [])) ∨ (txBusy m0 = true ∧ finishMu c m0 v m = txStep c m4)) := by
  have h2 : ∃ m2, (m2 = m ∨ ∃ r, m2 = adcDone c (adcPort c r) m)
      ∧ finishMu c m0 v m =
        (if txBusy m0 then txStep c (if m0.procBusy then procCount c (timerCount c m2) else timerCount c m2)
          else (if m0.procBusy then procCount c (timerCount c m2) else timerCount c m2, [])) := by
    cases v with
    | none => exact ⟨m, .inl rfl, rfl⟩
    | some v => exact ⟨_, .inr ⟨v, rfl⟩, rfl⟩
  obtain ⟨m2, h2, e⟩ := h2
  refine ⟨m2, if m0.procBusy then procCount c (timerCount c m2) else timerCount c m2, h2, ?_, ?_⟩
  · cases m0.procBusy
    · exact .inl ⟨rfl, rfl⟩
    · exact .inr ⟨rfl, rfl⟩
  · rw [e]
    cases txBusy m0
    · exact .inl ⟨rfl, rfl⟩
    · exact .inr ⟨rfl, rfl⟩

/-- Positions (2) to (5) of an MU cycle. -/
theorem finishMuCycle_eq (i : MuIn) (m0 : MU) (s : State) :
    ∃ v a ds n, finishMuCycle i m0 s = { s with
      mu := (finishMu s.cfg m0 v s.mu).1, link := s.link ++ (finishMu s.cfg m0 v s.mu).2, adc := a, adcDraws := ds, drawCnt := n } := by
  unfold finishMuCycle
  obtain ⟨a, h | ⟨v, h⟩⟩ := adcPhase_eq i.stray s
  · rw [h]
    obtain ⟨a', ds, n, h'⟩ := timerPhase_eq { s with adc := a }
    rw [h']
    refine ⟨none, a', ds, n, ?_⟩
    unfold procPhase txPhase finishMu
    cases m0.procBusy <;> cases txBusy m0 <;> simp [State.onMu]
  · rw [h]
    obtain ⟨a', ds, n, h'⟩ := timerPhase_eq { s with adc := a, mu := adcDone s.cfg (adcPort s.cfg v) s.mu }
    rw [h']
    refine ⟨some v, a', ds, n, ?_⟩
    unfold procPhase txPhase finishMu
    cases m0.procBusy <;> cases txBusy m0 <;> simp [State.onMu]

/-! ## Cycles and turns -/

/-- Retiring the host's operation changes only the list of operations. -/
theorem retireHost_eq (op : HostOp) (s : State) : ∃ h, retireHost op s = { s with host := h } := by
  unfold retireHost
  split
  · split <;> exact ⟨_, rfl⟩
  · exact ⟨_, rfl⟩

/-- An MU cycle: a reset cycle, or the access at the state at its start and the rest of the cycle. -/
theorem muCycle_cases {i : MuIn} {s t : State} (h : muCycle i s = .next t) :
    (i.rst = true ∧ t = retireHost (nextHostOp s) (muResetCycle (nextHostOp s) (beginMuCycle (popHost s))))
    ∨ (i.rst = false ∧ ∃ s1,
        ((opWord (nextHostOp s) = none ∧ s1 = beginMuCycle (popHost s))
          ∨ ∃ x, opWord (nextHostOp s) = some x ∧ exec (decodeBus x) (beginMuCycle (popHost s)) = .next s1)
        ∧ t = retireHost (nextHostOp s) (finishMuCycle i (beginMuCycle (popHost s)).mu s1)) := by
  unfold muCycle at h
  obtain ⟨s2, h1, h2⟩ := andThen_eq_next.mp h
  obtain rfl : retireHost (nextHostOp s) s2 = t := by simpa using h2
  cases hr : i.rst with
  | true =>
    left
    rw [hr, if_pos rfl] at h1
    refine ⟨rfl, ?_⟩
    rw [← Host.Outcome.next.inj h1]
  | false =>
    right
    rw [hr, if_neg (by simp)] at h1
    refine ⟨rfl, ?_⟩
    unfold muAccessCycle at h1
    cases ho : opWord (nextHostOp s) with
    | none =>
      rw [ho] at h1
      exact ⟨_, .inl ⟨rfl, rfl⟩, by rw [← Host.Outcome.next.inj h1]⟩
    | some x =>
      rw [ho] at h1
      obtain ⟨s1, he, hf⟩ := andThen_eq_next.mp h1
      exact ⟨s1, .inr ⟨x, rfl, he⟩, by rw [← Host.Outcome.next.inj hf]⟩

/-- A step is one turn of a legal configuration. -/
theorem step_cases {s t : State} (h : step s = .next t) :
    s.cfg.legal = true ∧ ∃ s1, muPart (nextTurn s).mu (popTurn s) = .next s1 ∧ suPart (nextTurn s).su s1 = .next t := by
  unfold step at h
  by_cases hl : s.cfg.legal = true
  · rw [if_pos hl] at h
    exact ⟨hl, andThen_eq_next.mp h⟩
  · rw [if_neg hl] at h; cases h

/-- Every MU cycle completes. -/
theorem muCycle_next (i : MuIn) (s : State) : ∃ t, muCycle i s = .next t := by
  have h : ∃ t, (if i.rst then .next (muResetCycle (nextHostOp s) (beginMuCycle (popHost s)))
      else muAccessCycle i (nextHostOp s) (beginMuCycle (popHost s))) = Host.Outcome.next t := by
    cases i.rst
    · unfold muAccessCycle
      cases opWord (nextHostOp s) with
      | none => exact ⟨_, rfl⟩
      | some x =>
        obtain ⟨t, ht⟩ := exec_next (decodeBus x) (beginMuCycle (popHost s))
        exact ⟨_, andThen_eq_next.mpr ⟨t, ht, rfl⟩⟩
    · exact ⟨_, rfl⟩
  obtain ⟨t, ht⟩ := h
  exact ⟨_, andThen_eq_next.mpr ⟨t, ht, rfl⟩⟩

/-- An SU cycle changes only the SU and the link, and takes at most the oldest event of the link. -/
theorem suCycle_cases {i : SuIn} {s t : State} (h : suCycle i s = .next t) :
    (∃ n, i = .reset n ∧ t = suResetCycle n s)
    ∨ (i = .idle ∧ t = suIdle s)
    ∨ (i = .observe ∧ s.link = [] ∧ t = suIdle s)
    ∨ (∃ e es, i = .observe ∧ s.link = e :: es ∧ t = { s with su := suEvent s.cfg s.su e, link := es })
    ∨ (∃ e, i = .event e ∧ t = { s with su := suEvent s.cfg s.su e })
    ∨ (∃ w, i = .frame w ∧ t = takeFrame w s) := by
  cases i with
  | reset n => exact .inl ⟨n, rfl, (Host.Outcome.next.inj h).symm⟩
  | idle => exact .inr (.inl ⟨rfl, (Host.Outcome.next.inj h).symm⟩)
  | observe =>
    have h' : suObserve s = t := Host.Outcome.next.inj h
    unfold suObserve at h'
    cases hl : s.link with
    | nil => rw [hl] at h'; exact .inr (.inr (.inl ⟨rfl, rfl, h'.symm⟩))
    | cons e es => rw [hl] at h'; exact .inr (.inr (.inr (.inl ⟨e, es, rfl, rfl, h'.symm⟩)))
  | event e => exact .inr (.inr (.inr (.inr (.inl ⟨e, rfl, (Host.Outcome.next.inj h).symm⟩))))
  | frame w =>
    refine .inr (.inr (.inr (.inr (.inr ⟨w, rfl, ?_⟩))))
    have h' : exec (decodeFrame w) s = .next t := h
    have hw := frameWord_eta w
    unfold decodeFrame at h'
    split at h'
    · rename_i hc
      rw [hc] at hw
      rw [← Host.Outcome.next.inj h', hw]
    · rw [← Host.Outcome.next.inj h', hw]

/-- Every SU cycle completes. -/
theorem suCycle_next (i : SuIn) (s : State) : ∃ t, suCycle i s = .next t := by
  cases i with
  | frame w => exact exec_next _ _
  | _ => exact ⟨_, rfl⟩

/-! ## Frames of cycles -/

/-- A bus access leaves the configuration, the host, the SU and the turns alone. -/
theorem exec_decodeBus_frame {x s s1} (h : exec (decodeBus x) s = .next s1) : s1.cfg = s.cfg ∧ s1.host = s.host ∧ s1.su = s.su ∧ s1.turns = s.turns := by
  rcases exec_decodeBus_cases x s with e | ⟨a, e⟩ | e | ⟨d, _, e⟩ | ⟨d, _, e⟩ | ⟨d, _, e⟩ | ⟨d, _, e⟩ | ⟨d, c, _, e⟩
  all_goals (rw [e] at h; cases h; simp)

/-- An MU cycle leaves the configuration, the SU and the turns alone (R3, R257). -/
theorem muCycle_frame {i s t} (h : muCycle i s = .next t) : t.cfg = s.cfg ∧ t.su = s.su ∧ t.turns = s.turns := by
  rcases muCycle_cases h with ⟨_, e⟩ | ⟨_, s1, h1, e⟩
  · obtain ⟨hh, e2⟩ := retireHost_eq (nextHostOp s) (muResetCycle (nextHostOp s) (beginMuCycle (popHost s)))
    rw [e, e2]; simp
  · obtain ⟨v, a, ds, n, e1⟩ := finishMuCycle_eq i (beginMuCycle (popHost s)).mu s1
    obtain ⟨hh, e2⟩ := retireHost_eq (nextHostOp s) (finishMuCycle i (beginMuCycle (popHost s)).mu s1)
    rw [e, e2, e1]
    rcases h1 with ⟨_, rfl⟩ | ⟨x, _, hx⟩
    · simp
    · have := exec_decodeBus_frame hx; simp [this]

/-- An SU cycle leaves everything but the SU and the link alone (R257). -/
theorem suCycle_frame {i s t} (h : suCycle i s = .next t) : t.cfg = s.cfg ∧ t.mu = s.mu ∧ t.adc = s.adc ∧ t.host = s.host ∧ t.turns = s.turns ∧ t.adcDraws = s.adcDraws ∧ t.drawCnt = s.drawCnt := by
  rcases suCycle_cases h with ⟨_, _, rfl⟩ | ⟨_, rfl⟩ | ⟨_, _, rfl⟩ | ⟨e, es, _, _, rfl⟩ | ⟨e, _, rfl⟩ | ⟨w, _, rfl⟩ <;> simp

/-- The SU's part of a turn leaves everything but the SU and the link alone. -/
theorem suPart_frame {i s t} (h : suPart i s = .next t) : t.cfg = s.cfg ∧ t.mu = s.mu ∧ t.adc = s.adc ∧ t.host = s.host ∧ t.turns = s.turns ∧ t.adcDraws = s.adcDraws ∧ t.drawCnt = s.drawCnt := by
  cases i with
  | none => cases h; simp
  | some i => exact suCycle_frame h

/-- What a step out of reset does to the MU: nothing, or the access's instruction and the rest of the cycle. -/
theorem step_mu {s t} (h : step s = .next t) (hr : ¬ muInReset s) : (t.mu = s.mu ∧ (nextTurn s).mu = none) ∨ ∃ i s1 v, (nextTurn s).mu = some i ∧ i.rst = false ∧
   ((opWord (nextHostOp s) = none ∧ s1 = beginMuCycle (popHost (popTurn s))) ∨ ∃ x, opWord (nextHostOp s) = some x ∧ exec (decodeBus x) (beginMuCycle (popHost (popTurn s))) = .next s1)
   ∧ t.mu = (finishMu s.cfg (beginMuCycle s).mu v s1.mu).1 := by
  obtain ⟨_, s1, h1, h2⟩ := step_cases h
  rw [(suPart_frame h2).2.1]
  cases hm : (nextTurn s).mu with
  | none => rw [hm] at h1; cases h1; exact .inl ⟨rfl, rfl⟩
  | some i =>
    rw [hm] at h1
    rcases muCycle_cases h1 with ⟨hi, _⟩ | ⟨hi, s2, hs2, rfl⟩
    · exact absurd ⟨i, hm, hi⟩ hr
    · right
      obtain ⟨v, a, ds, n, e1⟩ := finishMuCycle_eq i (beginMuCycle (popHost (popTurn s))).mu s2
      obtain ⟨hh, e2⟩ := retireHost_eq (nextHostOp (popTurn s)) (finishMuCycle i (beginMuCycle (popHost (popTurn s))).mu s2)
      refine ⟨i, s2, v, rfl, hi, hs2, ?_⟩
      rw [e2, e1]
      have : s2.cfg = s.cfg := by
        rcases hs2 with ⟨_, rfl⟩ | ⟨x, _, hx⟩
        · rfl
        · exact (exec_decodeBus_frame hx).1
      rw [this]
      rfl

/-! ## The converter and the link in a step -/

/-- A step with an MU cycle out of reset: the access at the state at the cycle's start, the rest of the cycle, then the SU's part. -/
theorem step_in_muCycle {s t : State} {i : MuIn} (h : step s = .next t) (hm : (nextTurn s).mu = some i) (hr : i.rst = false) :
    ∃ s1 t1, ((opWord (nextHostOp s) = none ∧ s1 = beginMuCycle (popHost (popTurn s)))
          ∨ ∃ x, opWord (nextHostOp s) = some x ∧ exec (decodeBus x) (beginMuCycle (popHost (popTurn s))) = .next s1)
      ∧ t1 = retireHost (nextHostOp s) (finishMuCycle i (beginMuCycle s).mu s1) ∧ suPart (nextTurn s).su t1 = .next t := by
  obtain ⟨_, t1, h1, h2⟩ := step_cases h
  rw [hm] at h1
  rcases muCycle_cases h1 with ⟨hr', _⟩ | ⟨_, s1, hs, e⟩
  · rw [hr] at hr'; cases hr'
  · exact ⟨s1, t1, hs, e, h2⟩

/-- Position (3) when it pulses `adc_start`: TIMER_COUNT, and the converter takes the request. -/
theorem timerPhase_started (s : State) (h : (timerCount s.cfg s.mu).adcStart = true) :
    timerPhase s = startConverter { s with mu := timerCount s.cfg s.mu } := by
  unfold timerPhase; simp only [State.onMu, h, if_true]

/-- Position (3) without an `adc_start`: TIMER_COUNT alone. -/
theorem timerPhase_not_started (s : State) (h : (timerCount s.cfg s.mu).adcStart = false) :
    timerPhase s = { s with mu := timerCount s.cfg s.mu } := by
  unfold timerPhase; simp only [State.onMu, h, if_false, Bool.false_eq_true]

/-- Positions (4) and (5) leave the converter and the Sampler as positions (2) and (3) leave them. -/
theorem finishMuCycle_keeps (i : MuIn) (m0 : MU) (s : State) :
    (finishMuCycle i m0 s).adc = (timerPhase (adcPhase i.stray s)).adc
      ∧ (finishMuCycle i m0 s).adcDraws = (timerPhase (adcPhase i.stray s)).adcDraws
      ∧ (finishMuCycle i m0 s).drawCnt = (timerPhase (adcPhase i.stray s)).drawCnt
      ∧ (finishMuCycle i m0 s).mu.adcStart = (timerPhase (adcPhase i.stray s)).mu.adcStart
      ∧ (finishMuCycle i m0 s).mu.adcPending = (timerPhase (adcPhase i.stray s)).mu.adcPending
      ∧ (finishMuCycle i m0 s).mu.idx = (timerPhase (adcPhase i.stray s)).mu.idx
      ∧ (finishMuCycle i m0 s).mu.blk = (timerPhase (adcPhase i.stray s)).mu.blk
      ∧ (finishMuCycle i m0 s).mu.ready = (timerPhase (adcPhase i.stray s)).mu.ready
      ∧ (finishMuCycle i m0 s).mu.convEn = (timerPhase (adcPhase i.stray s)).mu.convEn
      ∧ (finishMuCycle i m0 s).mu.tickEn = (timerPhase (adcPhase i.stray s)).mu.tickEn
      ∧ (finishMuCycle i m0 s).mu.tcnt = (timerPhase (adcPhase i.stray s)).mu.tcnt
      ∧ (finishMuCycle i m0 s).mu.tickMissed = (timerPhase (adcPhase i.stray s)).mu.tickMissed := by
  unfold finishMuCycle txPhase procPhase
  cases txBusy m0 <;> cases m0.procBusy <;> simp

/-- A bus access leaves the converter and the block alone, and a running acquisition too. -/
theorem access_keeps_converter {x s s1} (h : exec (decodeBus x) s = .next s1) :
    s1.adc = s.adc ∧ s1.adcDraws = s.adcDraws ∧ s1.drawCnt = s.drawCnt ∧ s1.mu.adcStart = s.mu.adcStart ∧ s1.mu.adcPending = s.mu.adcPending
      ∧ s1.mu.blk = s.mu.blk ∧ (s.mu.convEn = true → s1.mu.convEn = true ∧ s1.mu.tickEn = s.mu.tickEn ∧ s1.mu.tcnt = s.mu.tcnt ∧ s1.mu.idx = s.mu.idx)
      ∧ (s1.mu.tickMissed = true → s.mu.tickMissed = true) := by
  rcases exec_decodeBus_cases x s with e | ⟨a, e⟩ | e | ⟨d, _, e⟩ | ⟨d, _, e⟩ | ⟨d, _, e⟩ | ⟨d, _, e⟩ | ⟨d, c, _, e⟩
  all_goals (rw [e] at h; cases h)
  case inr.inr.inr.inr.inl =>
    simp; intro hc; simp [muStart, hc, setCmdErr]
  all_goals simp
  all_goals (intro a; simp_all)

/-- Without a CS_FALL on the wire nothing of the wire is left out. -/
theorem withoutOpenFrame_of_no_fall {l : List LinkEvent} (h : .csFall ∉ l) : withoutOpenFrame l = l := by
  induction l with
  | nil => rfl
  | cons e es ih =>
    simp only [List.mem_cons, not_or] at h
    unfold withoutOpenFrame
    rw [if_neg h.2, if_neg (fun c => h.1 c.1.symm)]

/-- A frame in transmission is left out from its CS_FALL on. -/
theorem withoutOpenFrame_open (l0 : List LinkEvent) (bits : List Bool) :
    withoutOpenFrame (l0 ++ (.csFall :: bits.map .bit)) = l0 := by
  have hr : LinkEvent.csRise ∉ bits.map LinkEvent.bit := by simp
  have hb : LinkEvent.csFall ∉ bits.map LinkEvent.bit := by simp
  induction l0 with
  | nil => rw [List.nil_append]; unfold withoutOpenFrame; rw [if_neg hb, if_pos ⟨rfl, hr⟩]
  | cons e es ih =>
    rw [List.cons_append]; unfold withoutOpenFrame
    rw [if_pos (by simp), ih]

/-- Where the last frame on the wire is closed, nothing of the wire is left out. -/
theorem withoutOpenFrame_closed (l0 : List LinkEvent) {l1 : List LinkEvent} (h : .csFall ∉ l1) :
    withoutOpenFrame (l0 ++ (.csRise :: l1)) = l0 ++ (.csRise :: l1) := by
  induction l0 with
  | nil => exact withoutOpenFrame_of_no_fall (by simp [h])
  | cons e es ih =>
    rw [List.cons_append]; unfold withoutOpenFrame
    rw [ih, if_neg (fun c : e = .csFall ∧ .csRise ∉ es ++ (.csRise :: l1) => c.2 (by simp)), ite_self]

/-- What the SU's part of a turn takes from the link. -/
theorem suPart_link {s t : State} {i} (h : suPart i s = .next t) :
    (i = none → t.su = s.su ∧ t.link = s.link) ∧ (i = some .idle → t.su = { s.su with dispValid := false } ∧ t.link = s.link)
    ∧ (i = some .observe → s.link = [] → t.su = { s.su with dispValid := false } ∧ t.link = [])
    ∧ (∀ e l, i = some .observe → s.link = e :: l → t.su = suEvent s.cfg s.su e ∧ t.link = l)
    ∧ (∀ e, i = some (.event e) → t.su = suEvent s.cfg s.su e ∧ t.link = s.link) := by
  cases i with
  | none => cases h; simp
  | some i =>
    rcases suCycle_cases h with ⟨_, rfl, rfl⟩ | ⟨rfl, rfl⟩ | ⟨rfl, hl, rfl⟩ | ⟨e, es, rfl, hl, rfl⟩ | ⟨e, rfl, rfl⟩ | ⟨w, rfl, rfl⟩
    · simp
    · simp [suIdle, suCycleStart]
    · simp [suIdle, suCycleStart, hl]
    · simp [hl]
    · simp
    · simp

/-- An MU cycle only appends to the link. -/
theorem muCycle_link {i s t} (h : muCycle i s = .next t) : ∃ es, t.link = s.link ++ es := by
  rcases muCycle_cases h with ⟨_, e⟩ | ⟨_, s1, h1, e⟩
  · obtain ⟨hh, e2⟩ := retireHost_eq (nextHostOp s) (muResetCycle (nextHostOp s) (beginMuCycle (popHost s)))
    rw [e, e2]; simp
  · obtain ⟨v, a, ds, n, e1⟩ := finishMuCycle_eq i (beginMuCycle (popHost s)).mu s1
    obtain ⟨hh, e2⟩ := retireHost_eq (nextHostOp s) (finishMuCycle i (beginMuCycle (popHost s)).mu s1)
    rw [e, e2, e1]
    rcases h1 with ⟨_, rfl⟩ | ⟨x, _, hx⟩
    · simp
    · have : ∃ es, s1.link = s.link ++ es := by
        rcases exec_decodeBus_cases x (beginMuCycle (popHost s)) with e | ⟨a, e⟩ | e | ⟨d, _, e⟩ | ⟨d, _, e⟩ | ⟨d, _, e⟩ | ⟨d, _, e⟩ | ⟨d, c, _, e⟩
        all_goals (rw [e] at hx; cases hx; simp)
      obtain ⟨es, q⟩ := this
      exact ⟨es ++ _, by simp [q]; rfl⟩

end Sys2Proof.Machine
end

