-- ==== Sys2Proof/Laws/Framer.lean ====
section
/-! SUPPORT. Runs of the transmitter, phase by phase: the guard before, a bit's low half, its high half, the bits of a word, the guard
after. -/

namespace Sys2Proof.Machine

@[simp] theorem txRun_zero (c : Config) (m : MU) : txRun c 0 m = (m, []) := rfl

theorem txRun_succ (c : Config) (n : Nat) (m : MU) :
    txRun c (n + 1) m = ((txRun c n (txStep c m).1).1, (txStep c m).2 ++ (txRun c n (txStep c m).1).2) := rfl

/-- Runs compose. -/
theorem txRun_add (c : Config) (a b : Nat) (m : MU) :
    txRun c (a + b) m = ((txRun c b (txRun c a m).1).1, (txRun c a m).2 ++ (txRun c b (txRun c a m).1).2) := by
  induction a generalizing m with
  | zero => simp
  | succ a ih =>
    rw [show a + 1 + b = (a + b) + 1 by omega, txRun_succ, txRun_succ, ih]
    simp

/-- An idle transmitter stays idle and puts nothing on the link. -/
theorem txRun_idle (c : Config) (n : Nat) (m : MU) (h : m.txState = .idle) : txRun c n m = (m, []) := by
  have hs : txStep c m = (m, []) := by simp [txStep, h]
  induction n with
  | zero => rfl
  | succ n ih => rw [txRun_succ, hs]; simp [ih]

/-- A phase whose cycles only count: the first `n` of them. -/
theorem txRun_wait (c : Config) (n : Nat) (m : MU) (h0 : m.txCyc = 0)
    (hs : ∀ k, k < n → txStep c { m with txCyc := k } = ({ m with txCyc := k + 1 }, [])) :
    txRun c n m = ({ m with txCyc := n }, []) := by
  induction n with
  | zero => exact (by rw [← h0] : (m, ([] : List LinkEvent)) = ({ m with txCyc := 0 }, []))
  | succ n ih =>
    rw [txRun_add c n 1, ih (fun k hk => hs k (by omega))]
    simp [txRun_succ, hs n (by omega)]

/-- The guard before the first bit (R253). -/
theorem txRun_pre (c : Config) (m : MU) (hg : 1 ≤ c.guardPre) (hs : m.txState = .pre) (h0 : m.txCyc = 0) :
    txRun c c.guardPre m = (enterLow m, []) := by
  obtain ⟨g, hg'⟩ : ∃ g, c.guardPre = g + 1 := ⟨c.guardPre - 1, by omega⟩
  have hw : txRun c g m = ({ m with txCyc := g }, []) := txRun_wait c g m h0 (fun k hk => by
    simp only [txStep, hs]
    rw [if_neg (by omega), if_neg (by omega)]; rfl)
  rw [hg', txRun_add, hw]
  simp only [txRun_succ, txRun_zero, txStep, hs]
  rw [if_neg (by omega), if_pos (by omega)]; rfl

/-- With GUARD_PRE = 0 the first TX_STEP is the first cycle of the first bit's low half (log 11). -/
theorem txRun_no_pre (c : Config) (n : Nat) (m : MU) (hg : c.guardPre = 0) (hs : m.txState = .pre) :
    txRun c (n + 1) m = txRun c (n + 1) (enterLow m) := by
  have h : txStep c m = txStep c (enterLow m) := by simp [txStep, hs, hg]
  rw [txRun_succ, txRun_succ, h]

/-- A bit's low half, at whose end the bit is on the link (R252, R253). -/
theorem txRun_low (c : Config) (m : MU) (hd : 1 ≤ c.sclkDiv) (hs : m.txState = .bits) (hc : m.sclk = false) (h0 : m.txCyc = 0) :
    txRun c c.sclkDiv m = ({ m with sclk := true, txCyc := 0 }, [.bit m.mosi]) := by
  obtain ⟨g, hg⟩ : ∃ g, c.sclkDiv = g + 1 := ⟨c.sclkDiv - 1, by omega⟩
  have hw : txRun c g m = ({ m with txCyc := g }, []) := txRun_wait c g m h0 (fun k hk => by
    simp only [txStep, hs, hc, txLow]
    rw [if_neg (by simp), if_neg (by omega)]; rfl)
  rw [hg, txRun_add, hw]
  simp only [txRun_succ, txRun_zero, txStep, hs, hc, txLow]
  rw [if_neg (by simp), if_pos (by omega)]; rfl

/-- A bit's high half: the next bit, or what follows the last one (R254). -/
theorem txRun_high (c : Config) (m : MU) (hd : 1 ≤ c.sclkDiv) (hs : m.txState = .bits) (hc : m.sclk = true) (h0 : m.txCyc = 0) :
    txRun c c.sclkDiv m =
      if 64 ≤ m.txBitcnt + 1 then txAfterBits c (shiftBit { m with txCyc := c.sclkDiv - 1 })
      else (enterLow (shiftBit { m with txCyc := c.sclkDiv - 1 }), []) := by
  obtain ⟨g, hg⟩ : ∃ g, c.sclkDiv = g + 1 := ⟨c.sclkDiv - 1, by omega⟩
  have hw : txRun c g m = ({ m with txCyc := g }, []) := txRun_wait c g m h0 (fun k hk => by
    simp only [txStep, hs, hc, txHigh, if_true]
    rw [if_neg (by omega)]; rfl)
  rw [hg, txRun_add, hw]
  simp only [txRun_succ, txRun_zero, txStep, hs, hc, txHigh, if_true, shiftBit_txBitcnt]
  rw [if_pos (by omega)]
  by_cases h : 64 ≤ m.txBitcnt + 1 <;> simp only [h, if_true, if_false, List.nil_append, List.append_nil] <;> rfl

/-- One whole bit that is not the last. -/
theorem txRun_bit (c : Config) (m : MU) (hd : 1 ≤ c.sclkDiv) (hs : m.txState = .bits) (hc : m.sclk = false) (h0 : m.txCyc = 0)
    (hb : m.txBitcnt + 1 < 64) :
    txRun c (2 * c.sclkDiv) m = (enterLow (shiftBit m), [.bit m.mosi]) := by
  rw [Nat.two_mul, txRun_add, txRun_low c m hd hs hc h0]
  simp only
  rw [txRun_high c { m with sclk := true, txCyc := 0 } hd hs rfl rfl, if_neg (by simp; omega)]
  rfl

/-- The state at the start of bit `k` of the word `w`. -/
def atBit (m : MU) (w : FrameWord) (k : Nat) : MU :=
  { m with txState := .bits, csN := false, sclk := false, txCyc := 0, txBitcnt := k, txShift := w <<< k, mosi := w.getLsbD (63 - k) }

/-- The first `k` bits of a word, `k` at most 63 (R112, R254). -/
theorem txRun_bits (c : Config) (m : MU) (w : FrameWord) (hd : 1 ≤ c.sclkDiv) (k : Nat) (hk : k ≤ 63) :
    txRun c (k * (2 * c.sclkDiv)) (atBit m w 0) = (atBit m w k, (List.range k).map (fun j => .bit (w.getLsbD (63 - j)))) := by
  induction k with
  | zero => simp
  | succ k ih =>
    rw [Nat.succ_mul, txRun_add, ih (by omega)]
    simp only
    rw [txRun_bit c (atBit m w k) hd rfl rfl rfl (by simp [atBit]; omega), List.range_succ, List.map_append]
    refine Prod.ext ?_ rfl
    simp only [atBit, enterLow, shiftBit]
    congr 1
    · rw [BitVec.shiftLeft_add]
    · rw [← BitVec.shiftLeft_add, BitVec.getLsbD_shiftLeft, decide_eq_true (by omega), decide_eq_false (by omega)]; rfl

/-- The last bit (R254). -/
theorem txRun_last_bit (c : Config) (m : MU) (w : FrameWord) (hd : 1 ≤ c.sclkDiv) :
    txRun c (2 * c.sclkDiv) (atBit m w 63) =
      ((txAfterBits c (shiftBit { atBit m w 63 with sclk := true, txCyc := c.sclkDiv - 1 })).1,
        .bit (w.getLsbD 0) :: (txAfterBits c (shiftBit { atBit m w 63 with sclk := true, txCyc := c.sclkDiv - 1 })).2) := by
  rw [Nat.two_mul, txRun_add, txRun_low c (atBit m w 63) hd rfl rfl rfl]
  simp only
  rw [txRun_high c { atBit m w 63 with sclk := true, txCyc := 0 } hd rfl rfl rfl, if_pos (by simp [atBit])]
  rfl

/-- The guard after the last bit, and completion (R256). -/
theorem txRun_post (c : Config) (m : MU) (hg : 1 ≤ c.guardPost) (hs : m.txState = .post) (h0 : m.txCyc = 0) :
    txRun c c.guardPost m = txFinish m := by
  obtain ⟨g, hg'⟩ : ∃ g, c.guardPost = g + 1 := ⟨c.guardPost - 1, by omega⟩
  have hw : txRun c g m = ({ m with txCyc := g }, []) := txRun_wait c g m h0 (fun k hk => by
    simp only [txStep, hs]
    rw [if_neg (by omega)]; rfl)
  rw [hg', txRun_add, hw]
  simp only [txRun_succ, txRun_zero, txStep, hs]
  rw [if_pos (by omega)]; rfl

end Sys2Proof.Machine
end

