-- ==== Sys2Proof/Laws/Ops.lean ====
section
/-! SUPPORT. What a legal configuration says, field by field; the arithmetic of R11; the root's digits; the block, the filter, the
series, the smoothing: one lemma for each shared operation that says what it can give. -/

namespace Sys2Proof.Machine

/-! ## A legal configuration -/

/-- The bounds of R7 that a legal configuration meets. -/
structure Bounds (c : Config) : Prop where
  adcBitsLow : 10 ≤ c.adcBits
  adcBitsHigh : c.adcBits ≤ 12
  adcMid : c.adcMid < 2 ^ c.adcBits
  blockLow : 1 ≤ c.blockN
  blockHigh : c.blockN ≤ 65535
  smooth : c.smoothLen ≤ 255
  rxMax : 7 ≤ c.rxMax
  accW : 33 ≤ c.accW
  accRoom : c.firK / 2 ≤ 2 ^ (c.accW - 33)
  firEven : c.firK % 2 = 0
  firLow : 2 ≤ c.firK
  coeffLength : c.coeff.length = c.firK
  coeffRange : ∀ v ∈ c.coeff, inS16 v
  coeffSym : c.coeff.reverse = c.coeff
  timer : 1 ≤ c.timerPeriod
  fsHz : 1 ≤ c.fsHz
  scaleDen : 1 ≤ c.scaleDen
  dtScale : inS16 c.dtScale
  proc : 1 ≤ c.procLatency
  sclk : 1 ≤ c.sclkDiv

theorem legal_bounds {c : Config} (h : c.legal = true) : Bounds c := by
  simp only [Config.legal, Config.sizesLegal, Config.firLegal, Config.ratesLegal, Bool.and_eq_true, decide_eq_true_eq,
    List.all_eq_true] at h
  obtain ⟨⟨⟨⟨⟨⟨⟨⟨⟨⟨h1, h2⟩, h3⟩, h4⟩, h5⟩, h6⟩, h7⟩, h8⟩, h9⟩, ⟨⟨⟨⟨k1, k2⟩, k3⟩, k4⟩, k5⟩⟩, ⟨⟨⟨⟨⟨⟨r1, r2⟩, r3⟩, r4⟩, _⟩, r6⟩, r7⟩⟩ := h
  exact ⟨h1, h2, h3, h4, h5, h6, h7, h8, h9, k1, k2, k3, k4, k5, r1, r2, r3, r4, r6, r7⟩

/-! ## Arithmetic -/

theorem satS16_range (v : Int) : inS16 (satS16 v) := by
  unfold satS16 inS16; omega

theorem satS16_of_range {v : Int} (h : inS16 v) : satS16 v = v := by
  unfold satS16; unfold inS16 at h; omega

theorem satU16_le (v : Nat) : satU16 v ≤ 65535 := by
  unfold satU16; omega

theorem satU32_lt (v : Nat) : satU32 v < 2 ^ 32 := by
  unfold satU32; omega

/-- A saturated value survives its 16-bit register. -/
theorem toNat_ofNat_satU16 (v : Nat) : (BitVec.ofNat 16 (satU16 v)).toNat = satU16 v := by
  have := satU16_le v
  simp only [BitVec.toNat_ofNat]; omega

/-- A 16-bit signed value survives a tap entry. -/
theorem toInt_ofInt_of_range {x : Int} (h : inS16 x) : (BitVec.ofInt 16 x).toInt = x := by
  obtain ⟨h1, h2⟩ := h
  rw [BitVec.toInt_ofInt]
  simp only [Int.bmod]; omega

/-- The digits from bit `b - 1` down keep the root not too large, and leave it less than one short. -/
theorem isqrtFrom_spec (m b r : Nat) (h1 : r * r ≤ m) (h2 : m < (r + 2 ^ b) * (r + 2 ^ b)) :
    isqrtFrom m b r * isqrtFrom m b r ≤ m ∧ m < (isqrtFrom m b r + 1) * (isqrtFrom m b r + 1) := by
  induction b generalizing r with
  | zero => exact ⟨h1, h2⟩
  | succ b ih =>
    unfold isqrtFrom
    split_ifs with h
    · refine ih _ h ?_
      have e : r + 2 ^ b + 2 ^ b = r + 2 ^ (b + 1) := by rw [pow_succ]; omega
      rw [e]; exact h2
    · exact ih _ h1 (by omega)

/-! ## The Sampler -/

theorem adcPort_lt (c : Config) (v : Reading) : (adcPort c v).toNat < 2 ^ c.adcBits := by
  unfold adcPort
  simp only [BitVec.toNat_ofNat]
  exact lt_of_le_of_lt (Nat.mod_le _ _) (Nat.mod_lt _ (by positivity))

/-! ## The FIR engine -/

theorem firRun_length (c : Config) (xs : List Int) (f : Fir) : (firRun c xs f).2.length = xs.length := by
  induction xs generalizing f with
  | nil => rfl
  | cons x xs ih => simp [firRun, ih]

theorem firRun_range (c : Config) (xs : List Int) (f : Fir) : ∀ v ∈ (firRun c xs f).2, inS16 v := by
  induction xs generalizing f with
  | nil => simp [firRun]
  | cons x xs ih =>
    intro v hv
    simp only [firRun, firStep, List.mem_cons] at hv
    rcases hv with rfl | hv
    · exact satS16_range _
    · exact ih _ v hv

/-- A run keeps the buffer's length and the index in range. -/
theorem firRun_shape (c : Config) (hk : 1 ≤ c.firK) (xs : List Int) (f : Fir) (h1 : f.tap.length = c.firK)
    (h2 : f.tapIdx < c.firK) : (firRun c xs f).1.tap.length = c.firK ∧ (firRun c xs f).1.tapIdx < c.firK := by
  induction xs generalizing f with
  | nil => exact ⟨h1, h2⟩
  | cons x xs ih =>
    simp only [firRun, firStep]
    refine ih _ (by simp [firInsert, h1]) ?_
    simp only [firInsert]
    exact Nat.mod_lt _ (by omega)

/-! ## The Estimator -/

theorem integrateFrom_length (c : Config) (y : Int) (fs : List Int) : (integrateFrom c y fs).length = fs.length := by
  induction fs generalizing y with
  | nil => rfl
  | cons f fs ih => simp [integrateFrom, ih]

theorem integrateFrom_range (c : Config) (y : Int) (fs : List Int) : ∀ v ∈ integrateFrom c y fs, inS16 v := by
  induction fs generalizing y with
  | nil => simp [integrateFrom]
  | cons f fs ih =>
    intro v hv
    simp only [integrateFrom, List.mem_cons] at hv
    rcases hv with rfl | hv
    · exact satS16_range _
    · exact ih _ v hv

theorem centredBlock_length (c : Config) (m : MU) : (centredBlock c m).length = c.blockN := by simp [centredBlock]

theorem filterBlock_length (c : Config) (xs : List Int) (f : Fir) : (filterBlock c xs f).2.length = xs.length := by
  unfold filterBlock
  split_ifs
  · exact firRun_length c xs f
  · rfl

theorem series_length (c : Config) (m : MU) : (series c m).2.length = c.blockN := by
  have h : (filterBlock c (centredBlock c m) (firOf m)).2.length = c.blockN := by
    rw [filterBlock_length, centredBlock_length]
  unfold series integrate
  split_ifs
  · simpa only [integrateFrom_length] using h
  · exact h

theorem series_shape (c : Config) (m : MU) (hk : 1 ≤ c.firK) (h1 : m.tap.length = c.firK) (h2 : m.tapIdx < c.firK) :
    (series c m).1.tap.length = c.firK ∧ (series c m).1.tapIdx < c.firK := by
  unfold series filterBlock
  split_ifs
  · exact firRun_shape c hk _ _ h1 h2
  · exact ⟨h1, h2⟩

theorem scale_le (c : Config) (v : Nat) : scale c v ≤ 65535 := satU16_le _

theorem freqOf_le (c : Config) (zc : Nat) : freqOf c zc ≤ 65535 := satU16_le _

theorem half_sum_le (buf : List Half) (n : Nat) :
    ((List.range n).map (fun k => (buf.getD k 0#16).toNat)).sum ≤ n * 65535 := by
  induction n with
  | zero => simp
  | succ n ih =>
    have := (buf.getD n 0#16).isLt
    rw [List.range_succ, List.map_append, List.sum_append]
    simp only [List.map_cons, List.map_nil, List.sum_cons, List.sum_nil]
    omega

/-- An average of 16-bit slots fits 16 bits. -/
theorem averageOf_le (buf : List Half) (n : Nat) : averageOf buf n ≤ 65535 := by
  unfold averageOf
  rcases Nat.eq_zero_or_pos n with rfl | h
  · simp
  · exact Nat.div_le_of_le_mul (half_sum_le buf n)

/-- What PROC_DONE makes of the smoothing state with smoothing off. -/
theorem smooth_off (c : Config) (p r : Nat) (b : Smooth) (h : c.smoothLen = 0) : smooth c p r b = (b, p, r) := by
  simp [smooth, h]

/-- Each sample of the integrated series in terms of the one before it. -/
theorem integrateFrom_getD (c : Config) (y : Int) (fs : List Int) (j : Nat) (hj : j < fs.length) :
    (integrateFrom c y fs).getD j 0
      = satS16 ((if j = 0 then y else (integrateFrom c y fs).getD (j - 1) 0) + asr (fs.getD j 0 * c.dtScale) c.intShift) := by
  induction fs generalizing y j with
  | nil => simp at hj
  | cons f fs ih =>
    cases j with
    | zero => simp [integrateFrom]
    | succ j =>
      simp only [integrateFrom, List.getD_cons_succ]
      rw [ih _ _ (by simpa using hj)]
      cases j with
      | zero => simp
      | succ j => simp

/-- The series depends only on the block and the filter. -/
theorem series_congr {c : Config} {m m' : MU} (h1 : m'.blk = m.blk) (h2 : m'.tap = m.tap) (h3 : m'.tapIdx = m.tapIdx) :
    series c m' = series c m := by
  unfold series centredBlock firOf; rw [h1, h2, h3]

/-- What PROC_DONE does to SQ_OVF. -/
theorem procDone_sqOvf (c : Config) (m : MU) : (procDone c m).sqOvf = (m.sqOvf || sumSqOvf (series c m).2) := rfl

/-- The processing engine at its last count. -/
theorem procCount_due {c : Config} {m : MU} (h1 : m.procBusy = true) (h2 : m.procCnt ≤ 1) :
    procCount c m = procDone c { m with procCnt := m.procCnt - 1 } := by
  unfold procCount; rw [if_pos h1]; exact if_pos (show m.procCnt - 1 = 0 by omega)

end Sys2Proof.Machine
end

