-- ==== Sys2Proof/Laws/Invariant.lean ====
section
/-! SUPPORT. What each operation keeps of the invariant of Safety.lean, one lemma for each. -/

namespace Sys2Proof.Machine

/-! ## The Sampler -/

theorem samplerInv_muStart {c m} (l : Bounds c) (h : SamplerInv c m) : SamplerInv c (muStart m) := by
  have := l.blockLow; have := l.timer
  unfold muStart; split_ifs with hc
  · exact ⟨h.blkLength, h.blkRange, by simp; omega, by simp, rfl, fun _ => rfl, fun _ => ⟨by simp; omega, rfl⟩, fun x => by simp at x, fun x => by simp [hc.2] at x⟩
  · exact ⟨h.1,h.2,h.3,h.4,h.5,h.6,h.7,h.8,h.9⟩

theorem samplerInv_muProcess {c m} (h : SamplerInv c m) : SamplerInv c (muProcess c m) := by
  unfold muProcess; split_ifs with hc
  · refine ⟨h.1,h.2,h.3,h.4,h.5,h.6, fun x => ⟨(h.7 x).1, rfl⟩, fun x => by simp at x, fun _ => ⟨(h.8 hc.1).2, rfl⟩⟩
  · exact ⟨h.1,h.2,h.3,h.4,h.5,h.6,h.7,h.8,h.9⟩

theorem samplerInv_adcDone {c m r} (l : Bounds c) (h : SamplerInv c m) : SamplerInv c (adcDone c (adcPort c r) m) := by
  have := l.timer
  have hr : ∀ x ∈ m.blk.set m.idx (adcPort c r), x.toNat < 2 ^ c.adcBits := by
    intro x hx
    rcases List.mem_or_eq_of_mem_set hx with h1 | rfl
    · exact h.2 x h1
    · exact adcPort_lt c r
  unfold adcDone
  by_cases hp : m.adcPending = true
  · have hc := h.6 hp
    have ⟨h7a, h7b⟩ := h.7 hc
    simp only [hp, if_true, h7a]
    split_ifs with hN
    · simp only [storeSample, blockFull]
      exact ⟨by simpa using h.1, hr, by simp; omega, by simp; omega, rfl, fun x => by simp at x, fun x => by simp at x, fun _ => ⟨hN, rfl⟩, fun x => by have := (h.9 x).1; simp [hc] at this⟩
    · simp only [storeSample]
      exact ⟨by simpa using h.1, hr, h.3, by simp; omega, h.5, fun x => by simp at x, fun x => ⟨by simp; omega, h7b⟩, fun x => by simp [h7b] at x, h.9⟩
  · simp only [hp]; exact h

theorem samplerInv_tick {c m} (h : SamplerInv c m) : SamplerInv c (tick m) := by
  unfold tick; split_ifs with h1 h2
  · exact ⟨h.1,h.2,h.3,h.4,h.5,fun _ => h1,h.7,h.8,h.9⟩
  · exact ⟨h.1,h.2,h.3,h.4,h.5,h.6,h.7,h.8,h.9⟩
  · exact h

theorem samplerInv_timerCount {c m} (l : Bounds c) (h : SamplerInv c m) : SamplerInv c (timerCount c m) := by
  have := l.timer
  unfold timerCount; split_ifs with h1 h2
  · apply samplerInv_tick; exact ⟨h.1,h.2,by simp; omega,h.4,h.5,h.6,h.7,h.8,h.9⟩
  · exact ⟨h.1,h.2,by have := h.3; simp; omega,h.4,h.5,h.6,h.7,h.8,h.9⟩
  · exact h

theorem samplerInv_of_eq {c m m'} (h : SamplerInv c m) (e : m'.tickEn = m.tickEn ∧ m'.tcnt = m.tcnt ∧ m'.convEn = m.convEn ∧ m'.adcPending = m.adcPending ∧ m'.idx = m.idx ∧ m'.blk = m.blk ∧ m'.ready = m.ready ∧ (m'.procBusy = true → m.procBusy = true)) : SamplerInv c m' := by
  obtain ⟨e1,e2,e3,e4,e5,e6,e7,e8⟩ := e
  exact ⟨by rw [e6]; exact h.1, by rw [e6]; exact h.2, by rw [e2]; exact h.3, by rw [e5]; exact h.4, by rw [e1,e3]; exact h.5, by rw [e4,e3]; exact h.6, by rw [e3,e5,e7]; exact h.7, by rw [e7,e5,e3]; exact h.8, by rw [e3,e7]; exact fun x => h.9 (e8 x)⟩

theorem procBusy_of_procCount {c m} : (procCount c m).procBusy = true → m.procBusy = true := by
  unfold procCount; split_ifs with h <;> simp [h]

theorem samplerInv_procCount {c m} (h : SamplerInv c m) : SamplerInv c (procCount c m) := samplerInv_of_eq h (by simp; exact procBusy_of_procCount)

theorem samplerInv_txStep {c m} (h : SamplerInv c m) : SamplerInv c (txStep c m).1 := samplerInv_of_eq h (by simp)

/-! ## The Estimator -/

theorem estimatorInv_of_eq {c m m'} (h : EstimatorInv c m) (e : m'.tap = m.tap ∧ m'.tapIdx = m.tapIdx ∧ m'.maPeak = m.maPeak ∧ m'.maRms = m.maRms ∧ m'.maIdx = m.maIdx ∧ m'.maCnt = m.maCnt ∧ m'.procCnt = m.procCnt ∧ (m'.procBusy = true → m.procBusy = true) ∧ m'.resValid = m.resValid ∧ m'.resPeak = m.resPeak ∧ m'.resRms = m.resRms ∧ m'.resFreq = m.resFreq) : EstimatorInv c m' := by
  obtain ⟨e1,e2,e3,e4,e5,e6,e7,e8,e9,e10,e11,e12⟩ := e
  exact ⟨by rw [e1]; exact h.1, by rw [e2]; exact h.2, by rw [e3]; exact h.3, by rw [e4]; exact h.4, by rw [e5]; exact h.5, by rw [e6]; exact h.6, by rw [e7]; exact h.7, by rw [e7]; exact fun x => h.8 (e8 x), by rw [e9,e10,e11,e12]; exact h.9⟩

theorem estimatorInv_procDone {c m k} (l : Bounds c) (h : EstimatorInv c m) (h7 : k ≤ c.procLatency) : EstimatorInv c (procDone c { m with procCnt := k }) := by
  have := l.firLow
  have hs := series_shape c { m with procCnt := k } (by omega) h.1 h.2
  by_cases hz : c.smoothLen = 0
  · refine ⟨hs.1, hs.2, ?_, ?_, ?_, ?_, h7, fun x => by simp [procDone] at x, fun x => by simp [procDone] at x⟩
    · simp [procDone, smooth, hz, smoothOf, h.3]
    · simp [procDone, smooth, hz, smoothOf, h.4]
    · have := h.5; simp [procDone, smooth, hz, smoothOf]; omega
    · have := h.6; simp [procDone, smooth, hz, smoothOf]; omega
  · refine ⟨hs.1, hs.2, ?_, ?_, ?_, ?_, h7, fun x => by simp [procDone] at x, fun x => by simp [procDone] at x⟩
    · simp [procDone, smooth, hz, smoothOf, h.3]
    · simp [procDone, smooth, hz, smoothOf, h.4]
    · simp only [procDone, smooth, hz, smoothOf, if_false]; exact .inl (Nat.mod_lt _ (by omega))
    · simp [procDone, smooth, hz, smoothOf]

theorem estimatorInv_procCount {c m} (l : Bounds c) (h : EstimatorInv c m) : EstimatorInv c (procCount c m) := by
  unfold procCount; dsimp only; split_ifs with h1 h2
  · have := h.7; exact estimatorInv_procDone l h (by omega)
  · have := h.7; exact ⟨h.1,h.2,h.3,h.4,h.5,h.6,by simp; omega, fun x => by simp only; omega, h.9⟩
  · exact h

/-! ## The Framer -/

theorem framerInv_of_eq {c m m'} (h : FramerInv c m) (e : m'.txState = m.txState ∧ m'.txShift = m.txShift ∧ m'.txBitcnt = m.txBitcnt ∧ m'.txCyc = m.txCyc ∧ m'.csN = m.csN ∧ m'.sclk = m.sclk ∧ m'.mosi = m.mosi) : FramerInv c m' := by
  obtain ⟨e1,e2,e3,e4,e5,e6,e7⟩ := e
  refine ⟨by rw [e3]; exact h.1, ?_⟩
  have := h.2
  unfold txPinsOk at *; rw [e1,e2,e3,e4,e5,e6,e7]; exact this

theorem framerInv_muSend {c m} (h : FramerInv c m) : FramerInv c (muSend m).1 := by
  unfold muSend; split_ifs
  · refine ⟨by simp, ?_⟩; simp [txPinsOk]
  · exact framerInv_of_eq h (by simp)

theorem framerInv_txLow {c m} (l : Bounds c) (hs : m.txState = .bits) (h1 : m.csN = false) (h2 : m.mosi = m.txShift.getLsbD 63) (h3 : m.txBitcnt < 64) (h4 : m.txCyc < c.sclkDiv) : FramerInv c (txLow c m).1 := by
  have := l.sclk
  unfold txLow; split_ifs
  · refine ⟨by simp; omega, ?_⟩; simp only [txPinsOk, hs]; exact ⟨h1, h2, h3, by omega⟩
  · refine ⟨by simp [txWait]; omega, ?_⟩; simp only [txWait, txPinsOk, hs]; exact ⟨h1, h2, h3, by omega⟩

theorem framerInv_txStep {c m} (l : Bounds c) (h : FramerInv c m) : FramerInv c (txStep c m).1 := by
  have := l.sclk
  have hp := h.2
  unfold txStep
  cases hs : m.txState <;> simp only [txPinsOk, hs] at hp ⊢
  · exact h
  · split_ifs
    · exact framerInv_txLow l rfl rfl rfl (by simp [hp]) (by simp; omega)
    · refine ⟨by simp [hp], ?_⟩; simp [txPinsOk, hp]; omega
    · refine ⟨by simp [txWait, hp], ?_⟩; simp only [txWait, txPinsOk, hs]; refine ⟨hp.1, hp.2.1, hp.2.2.1, hp.2.2.2.1, by omega⟩
  · split_ifs
    · unfold txHigh; split_ifs
      · dsimp only; split_ifs with hb
        · unfold txAfterBits; split_ifs
          · refine ⟨by simp [txFinish]; omega, ?_⟩; simp [txFinish, txPinsOk]
          · simp at hb; refine ⟨by simp; omega, ?_⟩; simp [txPinsOk]; omega
        · simp at hb; refine ⟨by simp; omega, ?_⟩; simp [txPinsOk]; omega
      · refine ⟨by simp [txWait]; omega, ?_⟩; simp only [txWait, txPinsOk, hs]; refine ⟨hp.1, hp.2.1, hp.2.2.1, by omega⟩
    · exact framerInv_txLow l hs hp.1 hp.2.1 hp.2.2.1 hp.2.2.2
  · split_ifs
    · refine ⟨by simp [txFinish, hp], ?_⟩; simp [txFinish, txPinsOk]
    · refine ⟨by simp [txWait, hp], ?_⟩; simp only [txWait, txPinsOk, hs]; refine ⟨hp.1, hp.2.1, hp.2.2.1, hp.2.2.2.1, by omega⟩

/-! ## The MU as a whole -/

/-- The MU's part of the invariant. -/
structure MuInv (c : Config) (m : MU) : Prop where
  s : SamplerInv c m
  e : EstimatorInv c m
  f : FramerInv c m

theorem muInv_adcDone {c m v} (l : Bounds c) (h : MuInv c m) : MuInv c (adcDone c (adcPort c v) m) := ⟨samplerInv_adcDone l h.1, estimatorInv_of_eq h.2 (by simp), framerInv_of_eq h.3 (by simp)⟩

theorem muInv_timerCount {c m} (l : Bounds c) (h : MuInv c m) : MuInv c (timerCount c m) := ⟨samplerInv_timerCount l h.1, estimatorInv_of_eq h.2 (by simp), framerInv_of_eq h.3 (by simp)⟩

theorem muInv_procCount {c m} (l : Bounds c) (h : MuInv c m) : MuInv c (procCount c m) := ⟨samplerInv_procCount h.1, estimatorInv_procCount l h.2, framerInv_of_eq h.3 (by simp)⟩

theorem muInv_txStep {c m} (l : Bounds c) (h : MuInv c m) : MuInv c (txStep c m).1 := ⟨samplerInv_txStep h.1, estimatorInv_of_eq h.2 (by simp), framerInv_txStep l h.3⟩

theorem muInv_finishMu {c m0 v m} (l : Bounds c) (h : MuInv c m) : MuInv c (finishMu c m0 v m).1 := by
  obtain ⟨m2, m4, h2, h4, h5⟩ := finishMu_eq c m0 v m
  have i2 : MuInv c m2 := by rcases h2 with rfl | ⟨r, rfl⟩; exacts [h, muInv_adcDone l h]
  have i4 : MuInv c m4 := by rcases h4 with ⟨_, rfl⟩ | ⟨_, rfl⟩; exacts [muInv_timerCount l i2, muInv_procCount l (muInv_timerCount l i2)]
  rcases h5 with ⟨_, e⟩ | ⟨_, e⟩ <;> rw [e]; exacts [i4, muInv_txStep l i4]

theorem muInv_of_eq {c m m'} (h : MuInv c m) (e : m' = { m with adcStart := m'.adcStart, busResp := m'.busResp, cmdErr := m'.cmdErr, tickMissed := m'.tickMissed, sqOvf := m'.sqOvf }) : MuInv c m' := by
  rw [e]
  exact ⟨samplerInv_of_eq h.1 (by simp), estimatorInv_of_eq h.2 (by simp), framerInv_of_eq h.3 (by simp)⟩

theorem muInv_exec {x s s1} (l : Bounds s.cfg) (h : MuInv s.cfg s.mu) (hex : exec (decodeBus x) s = .next s1) : MuInv s.cfg s1.mu := by
  rcases exec_decodeBus_cases x s with e | ⟨a, e⟩ | e | ⟨d, hd, e⟩ | ⟨d, _, e⟩ | ⟨d, _, e⟩ | ⟨d, _, e⟩ | ⟨d, c, _, e⟩
  all_goals (rw [e] at hex; cases hex)
  · exact muInv_of_eq h rfl
  · exact muInv_of_eq h rfl
  · exact muInv_of_eq h rfl
  · exact muInv_of_eq h rfl
  · exact muInv_of_eq (m := muStart s.mu) ⟨samplerInv_muStart l h.1, estimatorInv_of_eq h.2 (by simp), framerInv_of_eq h.3 (by simp)⟩ rfl
  · refine muInv_of_eq (m := muProcess s.cfg s.mu) ⟨samplerInv_muProcess h.1, ?_, framerInv_of_eq h.3 (by simp)⟩ rfl
    have hh := h.2; have := l.proc
    unfold muProcess; split_ifs
    · exact ⟨hh.1,hh.2,hh.3,hh.4,hh.5,hh.6,by simp,fun _ => by simpa using this,hh.9⟩
    · exact ⟨hh.1,hh.2,hh.3,hh.4,hh.5,hh.6,hh.7,hh.8,hh.9⟩
  · exact muInv_of_eq (m := (muSend s.mu).1) ⟨samplerInv_of_eq h.1 (by simp), estimatorInv_of_eq h.2 (by simp), framerInv_muSend h.3⟩ rfl
  · exact muInv_of_eq h rfl

theorem muInv_reset {c} (l : Bounds c) : MuInv c (MU.reset c) := by
  have := l.blockLow; have := l.firLow; have := l.timer
  refine ⟨⟨by simp [MU.reset], ?_, by simp [MU.reset]; omega, by simp [MU.reset], rfl, fun x => by simp [MU.reset] at x, fun x => by simp [MU.reset] at x, fun x => by simp [MU.reset] at x, fun x => by simp [MU.reset] at x⟩, ⟨by simp [MU.reset], by simp [MU.reset]; omega, by simp [MU.reset], by simp [MU.reset], by simp [MU.reset]; omega, by simp [MU.reset], by simp [MU.reset], fun x => by simp [MU.reset] at x, fun _ => ⟨rfl, rfl, rfl⟩⟩, ⟨by simp [MU.reset], by simp [txPinsOk, MU.reset]⟩⟩
  intro r hr; simp [MU.reset] at hr; rw [hr.2]; simp

/-! ## The receiver -/

theorem receiverInv_of_eq {c u u'} (h : ReceiverInv c u) (e : u' = { u with dispValid := u'.dispValid, dispPeak := u'.dispPeak, dispRms := u'.dispRms, dispFreq := u'.dispFreq }) : ReceiverInv c u' := by
  rw [e]; exact ⟨h.1,h.2,h.3,h.4,h.5,h.6,h.7⟩

theorem receiverInv_csFall {c u} (h : ReceiverInv c u) : ReceiverInv c (suCsFall u) :=
  ⟨h.1, by simp, by simp, by simp, by simp, by simp, by simp⟩

theorem receiverInv_close {c u} (h : ReceiverInv c u) : ReceiverInv c (closeCollection u) :=
  ⟨h.1, by simp, by simp, h.4, h.5, h.6, by simp⟩

theorem receiverInv_csRise {c u} (h : ReceiverInv c u) : ReceiverInv c (suCsRise u) := by
  unfold suCsRise; split
  · split_ifs
    · exact receiverInv_of_eq (receiverInv_close h) rfl
    · exact receiverInv_close h
  · exact h

theorem shiftIn_lt (v : Byte) (b : Bool) (n : Nat) (hn : n ≤ 7) (h : v.toNat < 2 ^ n) : (shiftIn v b).toNat < 2 ^ (n + 1) := by
  have : ∀ (n : Fin 8) (v : Byte) (b : Bool), v.toNat < 2 ^ n.val → (shiftIn v b).toNat < 2 ^ (n.val + 1) := by decide
  exact this ⟨n, by omega⟩ v b h

theorem receiverInv_bit {c u b} (l : Bounds c) (h : ReceiverInv c u) : ReceiverInv c (suBit c b u) := by
  have := l.rxMax
  unfold suBit; cases hs : u.rxState
  · exact h
  · simp only []
    have h2 := h.2
    split_ifs with h8
    · unfold byteDone; dsimp only
      split_ifs with a1 a2
      · refine ⟨by simpa using h.1, by simp, by simp, by simp, by simp; omega, ?_, by simp⟩
        intro hw; have := h.6; simp at hw ⊢
        have hw2 : u.rxWcnt < 255 := by omega
        have := this hw2
        have h5 := h.5
        split_ifs at this ⊢ <;> omega
      · refine ⟨by simpa using h.1, by simp, by simp, by simp, by have := h.5; simp; omega, ?_, by simp⟩
        intro hw; have := h.6; simp at hw ⊢
        have hw2 : u.rxWcnt < 255 := by omega
        have := this hw2
        have h5 := h.5
        split_ifs at this ⊢ <;> omega
      · refine ⟨by simpa using h.1, by simp, by simp, by simp, by have := h.5; simp; omega, ?_, by simp⟩
        intro hw; have := h.6; simp at hw ⊢
        have hw2 : u.rxWcnt < 255 := by omega
        have := this hw2
        have h5 := h.5
        split_ifs at this ⊢ <;> omega
    · exact ⟨h.1, by simp; omega, shiftIn_lt _ _ _ h.2 h.3, h.4, h.5, h.6, fun x => by simp at x⟩

theorem receiverInv_event {c u e} (l : Bounds c) (h : ReceiverInv c u) : ReceiverInv c (suEvent c u e) := by
  have h0 : ReceiverInv c (suCycleStart u) := receiverInv_of_eq h rfl
  cases e with
  | csFall => exact receiverInv_csFall h0
  | bit b => exact receiverInv_bit l h0
  | csRise => exact receiverInv_csRise h0

theorem receiverInv_events {c es} (l : Bounds c) : ∀ {u}, ReceiverInv c u → ReceiverInv c (suEvents c es u) := by
  unfold suEvents
  induction es with
  | nil => intro u h; exact h
  | cons e es ih => intro u h; exact ih (receiverInv_event l h)

theorem receiverInv_reset {c} (l : Bounds c) : ReceiverInv c (SU.reset c) := by
  have := l.rxMax
  exact ⟨by simp [SU.reset], by simp [SU.reset], by simp [SU.reset], by simp [SU.reset], by simp [SU.reset], by simp [SU.reset], by simp [SU.reset]⟩

end Sys2Proof.Machine
end

