-- ==== Sys2Proof/Laws/PerInstr.lean ====
section
/-! SUPPORT. The family TableRow: the encoding of a well-formed instruction matches the row of the opcode table that bears its mnemonic
(R116; spec/opcode_table.json). -/

namespace Sys2Proof.Laws.TableRow

open Sys2Proof Sys2Proof.Machine

/-- The encoded word matches the mask and the pattern of the instruction's own row. -/
def Matches (i : Instr) : Prop :=
  match encode i with
  | .bus t => ∃ r ∈ busRows, r.mnemonic = i.mnemonic ∧ r.Matches t
  | .frame w => (if w &&& 0xFF00000000000000#64 = 0x0200000000000000#64 then "FRAME_MEAS" else "FRAME_BAD") = i.mnemonic

def Statement (i : Instr) : Prop := i.wf = true → Matches i


theorem busErrSizeB (w : Bool) (a : Offset) (d : Word) : Statement (.busErrSizeB w a d) := fun _ =>
  ⟨⟨"BUS_ERR_SIZE.B", 0x000000000000#48, 0x600000000000#48, 0⟩, by decide, rfl,
    (matches_iff false false 0x3#2 0x0#2 0x0#6 0x0#6 0x0#32 0x0#32 (by decide) (by decide)).mpr (by
      refine ⟨by simp, by simp only [busSize_busWord]; rfl, by simp, by simp⟩)⟩

theorem busErrSizeH (w : Bool) (a : Offset) (d : Word) : Statement (.busErrSizeH w a d) := fun _ =>
  ⟨⟨"BUS_ERR_SIZE.H", 0x200000000000#48, 0x600000000000#48, 0⟩, by decide, rfl,
    (matches_iff false false 0x3#2 0x1#2 0x0#6 0x0#6 0x0#32 0x0#32 (by decide) (by decide)).mpr (by
      refine ⟨by simp, by simp only [busSize_busWord]; rfl, by simp, by simp⟩)⟩

theorem busErrSizeR (w : Bool) (a : Offset) (d : Word) : Statement (.busErrSizeR w a d) := fun _ =>
  ⟨⟨"BUS_ERR_SIZE.R", 0x600000000000#48, 0x600000000000#48, 0⟩, by decide, rfl,
    (matches_iff false false 0x3#2 0x3#2 0x0#6 0x0#6 0x0#32 0x0#32 (by decide) (by decide)).mpr (by
      refine ⟨by simp, by simp only [busSize_busWord]; rfl, by simp, by simp⟩)⟩

theorem busErrAlign1 (w : Bool) (a : Offset) (d : Word) : Statement (.busErrAlign1 w a d) := fun hw =>
  ⟨⟨"BUS_ERR_ALIGN.1", 0x400100000000#48, 0x600100000000#48, 0⟩, by decide, rfl,
    (matches_iff false false 0x3#2 0x2#2 0x1#6 0x1#6 0x0#32 0x0#32 (by decide) (by decide)).mpr (by
      have h : ∀ a : Offset, align1Ok a = true → a &&& 0x1#6 = 0x1#6 := by decide
      refine ⟨by simp [busW_busWord], by simp only [busSize_busWord]; rfl, ?_, by simp⟩
      rw [busAddr_busWord]; exact h a hw)⟩

theorem busErrAlign2 (w : Bool) (a : Offset) (d : Word) : Statement (.busErrAlign2 w a d) := fun hw =>
  ⟨⟨"BUS_ERR_ALIGN.2", 0x400200000000#48, 0x600200000000#48, 0⟩, by decide, rfl,
    (matches_iff false false 0x3#2 0x2#2 0x2#6 0x2#6 0x0#32 0x0#32 (by decide) (by decide)).mpr (by
      have h : ∀ a : Offset, align2Ok a = true → a &&& 0x2#6 = 0x2#6 := by decide
      refine ⟨by simp [busW_busWord], by simp only [busSize_busWord]; rfl, ?_, by simp⟩
      rw [busAddr_busWord]; exact h a hw)⟩

theorem rdCmd : Statement .rdCmd := fun _ =>
  ⟨⟨"RD_CMD", 0x400000000000#48, 0xE03F00000000#48, 1⟩, by decide, rfl, rfl⟩

theorem rdStatus : Statement .rdStatus := fun _ =>
  ⟨⟨"RD_STATUS", 0x400400000000#48, 0xE03F00000000#48, 1⟩, by decide, rfl, rfl⟩

theorem rdIndex : Statement .rdIndex := fun _ =>
  ⟨⟨"RD_INDEX", 0x400800000000#48, 0xE03F00000000#48, 1⟩, by decide, rfl, rfl⟩

theorem rdPeak : Statement .rdPeak := fun _ =>
  ⟨⟨"RD_PEAK", 0x400C00000000#48, 0xE03F00000000#48, 1⟩, by decide, rfl, rfl⟩

theorem rdRms : Statement .rdRms := fun _ =>
  ⟨⟨"RD_RMS", 0x401000000000#48, 0xE03F00000000#48, 1⟩, by decide, rfl, rfl⟩

theorem rdFreq : Statement .rdFreq := fun _ =>
  ⟨⟨"RD_FREQ", 0x401400000000#48, 0xE03F00000000#48, 1⟩, by decide, rfl, rfl⟩

theorem rdUnmappedLo (s : BitVec 1) : Statement (.rdUnmappedLo s) := fun _ =>
  ⟨⟨"RD_UNMAPPED.LO", 0x401800000000#48, 0xE03B00000000#48, 1⟩, by decide, rfl,
    (matches_iff true false 0x3#2 0x2#2 0x3B#6 0x18#6 0x0#32 0x0#32 (by decide) (by decide)).mpr (by
      have h : ∀ s : BitVec 1, unmappedLo s &&& 0x3B#6 = 0x18#6 := by decide
      rw [rdWord, busW_busWord, busSize_busWord, busAddr_busWord, busData_busWord]
      exact ⟨rfl, rfl, h s, by simp⟩)⟩

theorem rdUnmappedHi (s : BitVec 3) : Statement (.rdUnmappedHi s) := fun _ =>
  ⟨⟨"RD_UNMAPPED.HI", 0x402000000000#48, 0xE02300000000#48, 1⟩, by decide, rfl,
    (matches_iff true false 0x3#2 0x2#2 0x23#6 0x20#6 0x0#32 0x0#32 (by decide) (by decide)).mpr (by
      have h : ∀ s : BitVec 3, unmappedHi s &&& 0x23#6 = 0x20#6 := by decide
      rw [rdWord, busW_busWord, busSize_busWord, busAddr_busWord, busData_busWord]
      exact ⟨rfl, rfl, h s, by simp⟩)⟩

theorem nop (h : BitVec 24) : Statement (.nop h) := fun _ =>
  ⟨⟨"NOP", 0xC00000000000#48, 0xE03F000000FF#48, 1⟩, by decide, rfl,
    (matches_iff true true 0x3#2 0x2#2 0x3F#6 0x0#6 0xFF#32 0x0#32 (by decide) (by decide)).mpr (by
      rw [wrWord, busW_busWord, busSize_busWord, busAddr_busWord, busData_busWord]
      exact ⟨rfl, rfl, rfl, cmd_low h _⟩)⟩

theorem start (h : BitVec 24) : Statement (.start h) := fun _ =>
  ⟨⟨"START", 0xC00000000001#48, 0xE03F000000FF#48, 1⟩, by decide, rfl,
    (matches_iff true true 0x3#2 0x2#2 0x3F#6 0x0#6 0xFF#32 0x1#32 (by decide) (by decide)).mpr (by
      rw [wrWord, busW_busWord, busSize_busWord, busAddr_busWord, busData_busWord]
      exact ⟨rfl, rfl, rfl, cmd_low h _⟩)⟩

theorem process (h : BitVec 24) : Statement (.process h) := fun _ =>
  ⟨⟨"PROCESS", 0xC00000000002#48, 0xE03F000000FF#48, 1⟩, by decide, rfl,
    (matches_iff true true 0x3#2 0x2#2 0x3F#6 0x0#6 0xFF#32 0x2#32 (by decide) (by decide)).mpr (by
      rw [wrWord, busW_busWord, busSize_busWord, busAddr_busWord, busData_busWord]
      exact ⟨rfl, rfl, rfl, cmd_low h _⟩)⟩

theorem send (h : BitVec 24) : Statement (.send h) := fun _ =>
  ⟨⟨"SEND", 0xC00000000003#48, 0xE03F000000FF#48, 1⟩, by decide, rfl,
    (matches_iff true true 0x3#2 0x2#2 0x3F#6 0x0#6 0xFF#32 0x3#32 (by decide) (by decide)).mpr (by
      rw [wrWord, busW_busWord, busSize_busWord, busAddr_busWord, busData_busWord]
      exact ⟨rfl, rfl, rfl, cmd_low h _⟩)⟩

theorem cmdReserved (h : BitVec 24) (c : Byte) : Statement (.cmdReserved h c) := fun _ =>
  ⟨⟨"CMD_RESERVED", 0xC00000000000#48, 0xE03F00000000#48, 2⟩, by decide, rfl,
    (matches_iff true true 0x3#2 0x2#2 0x3F#6 0x0#6 0x0#32 0x0#32 (by decide) (by decide)).mpr (by
      rw [wrWord, busW_busWord, busSize_busWord, busAddr_busWord, busData_busWord]
      exact ⟨rfl, rfl, rfl, by simp⟩)⟩

theorem wrStatus (d : Word) : Statement (.wrStatus d) := fun _ =>
  ⟨⟨"WR_STATUS", 0xC00400000000#48, 0xE03F00000000#48, 1⟩, by decide, rfl,
    (matches_iff true true 0x3#2 0x2#2 0x3F#6 0x4#6 0x0#32 0x0#32 (by decide) (by decide)).mpr (by
      rw [wrWord, busW_busWord, busSize_busWord, busAddr_busWord, busData_busWord]
      exact ⟨rfl, rfl, rfl, by simp⟩)⟩

theorem wrRoIndex (d : Word) : Statement (.wrRoIndex d) := fun _ =>
  ⟨⟨"WR_RO.INDEX", 0xC00800000000#48, 0xE03F00000000#48, 1⟩, by decide, rfl,
    (matches_iff true true 0x3#2 0x2#2 0x3F#6 0x8#6 0x0#32 0x0#32 (by decide) (by decide)).mpr (by
      rw [wrWord, busW_busWord, busSize_busWord, busAddr_busWord, busData_busWord]
      exact ⟨rfl, rfl, rfl, by simp⟩)⟩

theorem wrRoPeak (d : Word) : Statement (.wrRoPeak d) := fun _ =>
  ⟨⟨"WR_RO.PEAK", 0xC00C00000000#48, 0xE03F00000000#48, 1⟩, by decide, rfl,
    (matches_iff true true 0x3#2 0x2#2 0x3F#6 0xC#6 0x0#32 0x0#32 (by decide) (by decide)).mpr (by
      rw [wrWord, busW_busWord, busSize_busWord, busAddr_busWord, busData_busWord]
      exact ⟨rfl, rfl, rfl, by simp⟩)⟩

theorem wrRoRms (d : Word) : Statement (.wrRoRms d) := fun _ =>
  ⟨⟨"WR_RO.RMS", 0xC01000000000#48, 0xE03F00000000#48, 1⟩, by decide, rfl,
    (matches_iff true true 0x3#2 0x2#2 0x3F#6 0x10#6 0x0#32 0x0#32 (by decide) (by decide)).mpr (by
      rw [wrWord, busW_busWord, busSize_busWord, busAddr_busWord, busData_busWord]
      exact ⟨rfl, rfl, rfl, by simp⟩)⟩

theorem wrRoFreq (d : Word) : Statement (.wrRoFreq d) := fun _ =>
  ⟨⟨"WR_RO.FREQ", 0xC01400000000#48, 0xE03F00000000#48, 1⟩, by decide, rfl,
    (matches_iff true true 0x3#2 0x2#2 0x3F#6 0x14#6 0x0#32 0x0#32 (by decide) (by decide)).mpr (by
      rw [wrWord, busW_busWord, busSize_busWord, busAddr_busWord, busData_busWord]
      exact ⟨rfl, rfl, rfl, by simp⟩)⟩

theorem wrUnmappedLo (s : BitVec 1) (d : Word) : Statement (.wrUnmappedLo s d) := fun _ =>
  ⟨⟨"WR_UNMAPPED.LO", 0xC01800000000#48, 0xE03B00000000#48, 1⟩, by decide, rfl,
    (matches_iff true true 0x3#2 0x2#2 0x3B#6 0x18#6 0x0#32 0x0#32 (by decide) (by decide)).mpr (by
      have h : ∀ s : BitVec 1, unmappedLo s &&& 0x3B#6 = 0x18#6 := by decide
      rw [wrWord, busW_busWord, busSize_busWord, busAddr_busWord, busData_busWord]
      exact ⟨rfl, rfl, h s, by simp⟩)⟩

theorem wrUnmappedHi (s : BitVec 3) (d : Word) : Statement (.wrUnmappedHi s d) := fun _ =>
  ⟨⟨"WR_UNMAPPED.HI", 0xC02000000000#48, 0xE02300000000#48, 1⟩, by decide, rfl,
    (matches_iff true true 0x3#2 0x2#2 0x23#6 0x20#6 0x0#32 0x0#32 (by decide) (by decide)).mpr (by
      have h : ∀ s : BitVec 3, unmappedHi s &&& 0x23#6 = 0x20#6 := by decide
      rw [wrWord, busW_busWord, busSize_busWord, busAddr_busWord, busData_busWord]
      exact ⟨rfl, rfl, h s, by simp⟩)⟩

theorem frameMeas (rsvd : Byte) (p r f : Half) : Statement (.frameMeas rsvd p r f) := fun _ =>
  if_pos ((frame_first_byte _).mpr (frameWord_cmd 0x02#8 rsvd p r f))

theorem frameBad (cmd rsvd : Byte) (p r f : Half) : Statement (.frameBad cmd rsvd p r f) := fun hw => by
  have hc : cmd ≠ 0x02#8 := by simpa [Instr.wf, badSentinel] using hw
  exact if_neg (fun h => hc ((frameWord_cmd cmd rsvd p r f).symm.trans ((frame_first_byte _).mp h)))

end Sys2Proof.Laws.TableRow
end

