-- ==== Sys2Proof/Laws/Receiver.lean ====
section
/-! SUPPORT. Runs of the receiver: appended event lists, the bits of one byte, the bytes of a frame. -/

namespace Sys2Proof.Machine

theorem suEvents_append (c : Config) (es fs : List LinkEvent) (u : SU) :
    suEvents c (es ++ fs) u = suEvents c fs (suEvents c es u) := by simp [suEvents]

@[simp] theorem suEvents_nil (c : Config) (u : SU) : suEvents c [] u = u := rfl

theorem suEvents_cons (c : Config) (e : LinkEvent) (es : List LinkEvent) (u : SU) :
    suEvents c (e :: es) u = suEvents c es (suEvent c u e) := rfl

theorem dispatches_append (c : Config) (es fs : List LinkEvent) (u : SU) :
    dispatches c (es ++ fs) u = dispatches c es u ++ dispatches c fs (suEvents c es u) := by
  induction es generalizing u with
  | nil => rfl
  | cons e es ih => simp [dispatches, ih, suEvents_cons]

@[simp] theorem byteDone_dispValid (c : Config) (v : Byte) (u : SU) : (byteDone c v u).dispValid = u.dispValid := by
  unfold byteDone; dsimp only; split_ifs <;> rfl

@[simp] theorem byteDone_dispPeak (c : Config) (v : Byte) (u : SU) : (byteDone c v u).dispPeak = u.dispPeak := by
  unfold byteDone; dsimp only; split_ifs <;> rfl

@[simp] theorem byteDone_dispRms (c : Config) (v : Byte) (u : SU) : (byteDone c v u).dispRms = u.dispRms := by
  unfold byteDone; dsimp only; split_ifs <;> rfl

@[simp] theorem byteDone_dispFreq (c : Config) (v : Byte) (u : SU) : (byteDone c v u).dispFreq = u.dispFreq := by
  unfold byteDone; dsimp only; split_ifs <;> rfl

@[simp] theorem byteDone_rxState (c : Config) (v : Byte) (u : SU) : (byteDone c v u).rxState = u.rxState := by
  unfold byteDone; dsimp only; split_ifs <;> rfl

/-- A bit dispatches nothing and leaves the last dispatched triple and the receiver's state. -/
theorem suEvent_bit_quiet (c : Config) (b : Bool) (u : SU) :
    (suEvent c u (.bit b)).dispValid = false ∧ (suEvent c u (.bit b)).dispPeak = u.dispPeak
      ∧ (suEvent c u (.bit b)).dispRms = u.dispRms ∧ (suEvent c u (.bit b)).dispFreq = u.dispFreq
      ∧ (suEvent c u (.bit b)).rxState = u.rxState := by
  simp only [suEvent, suBit, suCycleStart_rxState]
  cases h : u.rxState
  · simp [h]
  · dsimp only
    split_ifs <;> simp

theorem suEvents_bits_quiet (c : Config) (bits : List Bool) (u : SU) :
    (suEvents c (bits.map .bit) u).dispPeak = u.dispPeak
      ∧ (suEvents c (bits.map .bit) u).dispRms = u.dispRms ∧ (suEvents c (bits.map .bit) u).dispFreq = u.dispFreq
      ∧ (suEvents c (bits.map .bit) u).rxState = u.rxState ∧ dispatches c (bits.map .bit) u = [] := by
  induction bits generalizing u with
  | nil => exact ⟨rfl, rfl, rfl, rfl, rfl⟩
  | cons b bits ih =>
    obtain ⟨h1, h2, h3, h4, h5⟩ := suEvent_bit_quiet c b u
    obtain ⟨k1, k2, k3, k4, k5⟩ := ih (suEvent c u (.bit b))
    simp only [List.map_cons, suEvents_cons, dispatches, dispatched, h1, k1, k2, k3, k4, k5, h2, h3, h4, h5]
    exact ⟨trivial, trivial, trivial, trivial, rfl⟩

/-- The bits of a byte, most significant first (R75). -/
def byteBits (v : Byte) : List Bool := (List.range 8).map (fun k => v.getLsbD (7 - k))

/-- Eight bits shifted in are the byte. -/
theorem shiftIn_byte (v : Byte) : (byteBits v).foldl shiftIn 0#8 = v := by revert v; decide

/-- A complete byte (R283, R284): BYTE_DONE with its value, and an empty shift register. -/
theorem suEvents_byte (c : Config) (v : Byte) (u : SU) (hs : u.rxState = .collecting) (hb : u.rxBitcnt = 0)
    (hv : u.rxShift = 0#8) :
    suEvents c ((byteBits v).map .bit) u = { byteDone c v { u with dispValid := false } with rxBitcnt := 0, rxShift := 0#8 } := by
  have h := shiftIn_byte v
  have e : byteBits v = [v.getLsbD 7, v.getLsbD 6, v.getLsbD 5, v.getLsbD 4, v.getLsbD 3, v.getLsbD 2, v.getLsbD 1, v.getLsbD 0] := rfl
  rw [e] at h ⊢
  simp only [List.foldl_cons, List.foldl_nil] at h
  simp only [List.map_cons, List.map_nil, suEvents_cons, suEvents_nil, suEvent, suBit, suCycleStart, hs, hb, hv]
  simp only [Nat.zero_add, Nat.reduceAdd, Nat.reduceEqDiff, if_false, if_true, h]
  unfold byteDone
  dsimp only
  split_ifs <;> simp

/-- The SU's run over a frame: CS_FALL, the 64 bits, CS_RISE (R258). -/
theorem suEvents_frameEvents (c : Config) (w : FrameWord) (u : SU) :
    suEvents c (frameEvents w) u = suEvent c (suEvents c ((frameBits w).map .bit) (suEvent c u .csFall)) .csRise := by
  rw [frameEvents, suEvents_cons, suEvents_append, suEvents_cons, suEvents_nil]

/-- Only the CS_RISE of a frame can dispatch (R289). -/
theorem dispatches_frameEvents (c : Config) (w : FrameWord) (u : SU) :
    dispatches c (frameEvents w) u
      = dispatched (suEvent c (suEvents c ((frameBits w).map .bit) (suEvent c u .csFall)) .csRise) := by
  have hq := (suEvents_bits_quiet c (frameBits w) (suEvent c u .csFall)).2.2.2.2
  have h0 : dispatched (suEvent c u .csFall) = [] := by simp [dispatched, suEvent]
  rw [frameEvents, dispatches, dispatches_append, hq, h0]
  simp [dispatches]

/-- The two frame rows deliver the frame of their operands to the SU, and change nothing else. -/
theorem exec_frameMeas (rsvd : Byte) (p r f : Half) (s : State) :
    exec (.frameMeas rsvd p r f) s = .next { s with su := suEvents s.cfg (frameEvents (frameWord 0x02#8 rsvd p r f)) s.su } := by
  simp only [exec, execFrameMeas, takeFrame]

theorem exec_frameBad (cmd rsvd : Byte) (p r f : Half) (s : State) :
    exec (.frameBad cmd rsvd p r f) s = .next { s with su := suEvents s.cfg (frameEvents (frameWord cmd rsvd p r f)) s.su } := by
  simp only [exec, execFrameBad, takeFrame]

/-- The bits of a frame are the bits of its eight bytes (R110, R112). -/
theorem frameBits_bytes (w : FrameWord) :
    frameBits w = byteBits (w.extractLsb' 56 8) ++ byteBits (w.extractLsb' 48 8) ++ byteBits (w.extractLsb' 40 8)
      ++ byteBits (w.extractLsb' 32 8) ++ byteBits (w.extractLsb' 24 8) ++ byteBits (w.extractLsb' 16 8)
      ++ byteBits (w.extractLsb' 8 8) ++ byteBits (w.extractLsb' 0 8) := by
  simp [frameBits, byteBits, List.range_succ]

/-- An idle receiver dispatches nothing before the next CS_FALL. -/
theorem dispatches_idle {c : Config} {l : List LinkEvent} (h : .csFall ∉ l) :
    ∀ {u : SU}, u.rxState = .idle → dispatches c l u = [] := by
  induction l with
  | nil => intro u _; rfl
  | cons e es ih =>
    intro u hu
    simp only [List.mem_cons, not_or] at h
    have he : suEvent c u e = { u with dispValid := false } := by
      cases e with
      | csFall => exact absurd rfl h.1
      | bit b => simp [suEvent, suBit, suCycleStart, hu]
      | csRise => simp [suEvent, suCsRise, suCycleStart, hu]
    simp only [dispatches, he, dispatched]
    exact ih h.2 hu

/-- A CS_RISE leaves the receiver idle, whatever came before it. -/
theorem suEvents_csRise_idle (c : Config) (l : List LinkEvent) (u : SU) : (suEvents c (l ++ [.csRise]) u).rxState = .idle := by
  rw [suEvents_append]
  show (suCsRise (suCycleStart (suEvents c l u))).rxState = .idle
  unfold suCsRise
  split
  · split <;> rfl
  · assumption

/-- After a CS_RISE nothing is dispatched before the next CS_FALL. -/
theorem dispatches_after_csRise (c : Config) (l0 : List LinkEvent) {l1 : List LinkEvent} (h : .csFall ∉ l1) (u : SU) :
    dispatches c (l0 ++ (.csRise :: l1)) u = dispatches c (l0 ++ [.csRise]) u := by
  have e : l0 ++ (.csRise :: l1) = (l0 ++ [.csRise]) ++ l1 := by simp
  rw [e, dispatches_append, dispatches_idle h (suEvents_csRise_idle c l0 u), List.append_nil]

end Sys2Proof.Machine
end

