-- ==== Sys2Proof/Tests/Slice0.lean ====
section
/-! SUPPORT. Tests of the model on small states, each against a value of the spec (95_test_vectors.md, or the rule named), and for each
obligation with hypotheses a witness that meets them. -/

open Sys2Proof
open Sys2Proof.Machine

namespace Sys2Proof.Tests

/-! ## Helpers -/

/-- The next state, if there is one. -/
def nextOf (o : Host.Outcome State Fault Refusal) : Option State :=
  match o with
  | .next s => some s
  | .fault _ => none
  | .refused _ => none

/-- The MU after one step. -/
def muAfter (s : State) : Option MU := (nextOf (step s)).map (·.mu)

/-- The MU after an instruction. -/
def muExec (i : Instr) (s : State) : Option MU := (nextOf (exec i s)).map (·.mu)

/-- The SU after an instruction. -/
def suExec (i : Instr) (s : State) : Option SU := (nextOf (exec i s)).map (·.su)

/-- The triple on the dispatch port. -/
def dispOf (u : SU) : Half × Half × Half := (u.dispPeak, u.dispRms, u.dispFreq)

/-- Reset, with another MU. -/
def withMu (m : MU) : State := { State.reset with mu := m }

/-- The MU after a reset in CFG-P. -/
def mu0 : MU := MU.reset cfgP

/-- The MU while it acquires, with a conversion pending. -/
def muConv : MU := { mu0 with tickEn := true, convEn := true, adcPending := true }

/-- The MU with the full block of P1, ready. -/
def muFull : MU := { mu0 with idx := 4, ready := true, blk := [612#12, 412#12, 412#12, 612#12] }

/-- A response with a value and no error. -/
def okRead (v : Word) : Option BusResp := some { rdata := some v, err := false }

/-- The response of a performed write. -/
def okWrite : Option BusResp := some { rdata := none, err := false }

/-- The BusError response. -/
def badAccess : Option BusResp := some { rdata := some 0#32, err := true }

/-- A bus turn of the MU alone in which the host makes this access. -/
def withAccess (t : BusWord) (s : State) : State :=
  { s with host := [.access t], turns := [{ mu := some {}, su := none }] }

/-! ## Ill-formed terms are refused -/

theorem test_wf_align1 : (Instr.busErrAlign1 false 0x02#6 0#32).wf = false ∧ (Instr.busErrAlign1 true 0x03#6 0#32).wf = true := by decide
theorem test_wf_align2 : (Instr.busErrAlign2 false 0x03#6 0#32).wf = false ∧ (Instr.busErrAlign2 false 0x06#6 0#32).wf = true := by decide
theorem test_wf_reserved : (Instr.cmdReserved 0#24 0x03#8).wf = false ∧ (Instr.cmdReserved 0#24 0x04#8).wf = true := by decide
theorem test_wf_frame_bad : (Instr.frameBad 0x02#8 0#8 0#16 0#16 0#16).wf = false ∧ (Instr.frameBad 0x03#8 0#8 0#16 0#16 0#16).wf = true := by decide

/-! ## Words written out from the encoding (R101, R103, R110), one for each constructor

The groups of a bus word: W, SIZE, bits 44:38, ADDR, DATA. -/

theorem test_dec_size_b : decodeBus 0b0_00_0000000_000100_00000000000000000000000000000000#48 = .busErrSizeB false 0x04#6 0#32 := by decide
theorem test_dec_size_h : decodeBus 0b0_01_0000000_001100_00000000000000000000000000000000#48 = .busErrSizeH false 0x0C#6 0#32 := by decide
theorem test_dec_size_r : decodeBus 0b1_11_0000000_000001_00000000000000000000000000000101#48 = .busErrSizeR true 0x01#6 5#32 := by decide
theorem test_dec_align_1 : decodeBus 0b1_10_0000000_000001_00000000000000000000000000000001#48 = .busErrAlign1 true 0x01#6 1#32 := by decide
theorem test_dec_align_2 : decodeBus 0b0_10_0000000_000110_00000000000000000000000000000000#48 = .busErrAlign2 false 0x06#6 0#32 := by decide
theorem test_dec_align_overlap : decodeBus 0b0_10_0000000_000111_00000000000000000000000000000000#48 = .busErrAlign1 false 0x07#6 0#32 := by decide
theorem test_dec_rd_cmd : decodeBus 0b0_10_0000000_000000_00000000000000000000000000000000#48 = .rdCmd := by decide
theorem test_dec_rd_status : decodeBus 0b0_10_0000000_000100_00000000000000000000000000000000#48 = .rdStatus := by decide
theorem test_dec_rd_index : decodeBus 0b0_10_0000000_001000_00000000000000000000000000000000#48 = .rdIndex := by decide
theorem test_dec_rd_peak : decodeBus 0b0_10_0000000_001100_00000000000000000000000000000000#48 = .rdPeak := by decide
theorem test_dec_rd_rms : decodeBus 0b0_10_0000000_010000_00000000000000000000000000000000#48 = .rdRms := by decide
theorem test_dec_rd_freq : decodeBus 0b0_10_0000000_010100_00000000000000000000000000000000#48 = .rdFreq := by decide
theorem test_dec_rd_unmapped_lo : decodeBus 0b0_10_0000000_011100_00000000000000000000000000000000#48 = .rdUnmappedLo 1#1 := by decide
theorem test_dec_rd_unmapped_hi : decodeBus 0b0_10_0000000_100000_00000000000000000000000000000000#48 = .rdUnmappedHi 0#3 := by decide
theorem test_dec_rd_zero_ignored : decodeBus 0b0_10_1010101_000100_00000000000000000000000000000111#48 = .rdStatus := by decide
theorem test_dec_nop : decodeBus 0b1_10_0000000_000000_00000000000000000000000000000000#48 = .nop 0#24 := by decide
theorem test_dec_start : decodeBus 0b1_10_0000000_000000_00000000000000000000000000000001#48 = .start 0#24 := by decide
theorem test_dec_start_high : decodeBus 0b1_10_0000000_000000_00000000000000000000000100000001#48 = .start 1#24 := by decide
theorem test_dec_process : decodeBus 0b1_10_0000000_000000_00000000000000000000000000000010#48 = .process 0#24 := by decide
theorem test_dec_send : decodeBus 0b1_10_0000000_000000_00000000000000000000000000000011#48 = .send 0#24 := by decide
theorem test_dec_reserved : decodeBus 0b1_10_0000000_000000_00000000000000000000000001111111#48 = .cmdReserved 0#24 0x7F#8 := by decide
theorem test_dec_wr_status : decodeBus 0b1_10_0000000_000100_00000000000000000000000100000000#48 = .wrStatus 0x100#32 := by decide
theorem test_dec_wr_index : decodeBus 0b1_10_0000000_001000_00000000000000000000000000000001#48 = .wrRoIndex 1#32 := by decide
theorem test_dec_wr_peak : decodeBus 0b1_10_0000000_001100_00000000000000001111111111111111#48 = .wrRoPeak 0xFFFF#32 := by decide
theorem test_dec_wr_rms : decodeBus 0b1_10_0000000_010000_00000000000000000000000000000001#48 = .wrRoRms 1#32 := by decide
theorem test_dec_wr_freq : decodeBus 0b1_10_0000000_010100_00000000000000000000000000000001#48 = .wrRoFreq 1#32 := by decide
theorem test_dec_wr_unmapped_lo : decodeBus 0b1_10_0000000_011000_00000000000000000000000000000001#48 = .wrUnmappedLo 0#1 1#32 := by decide
theorem test_dec_wr_unmapped_hi : decodeBus 0b1_10_0000000_111100_11111111111111111111111111111111#48 = .wrUnmappedHi 7#3 0xFFFFFFFF#32 := by decide

/-- L1.1, the eight wire bytes bit by bit. -/
theorem test_dec_frame_meas :
    decodeFrame 0b00000010_00000000_00000100_11010010_00000010_11000011_00000001_11110100#64 = .frameMeas 0#8 1234#16 707#16 500#16 := by
  decide
/-- L1.2. -/
theorem test_dec_frame_bad :
    decodeFrame 0b00000011_00000000_00000100_11010010_00000010_11000011_00000001_11110100#64 = .frameBad 3#8 0#8 1234#16 707#16 500#16 := by
  decide

theorem test_table_word_bus : decodeTableWord 48 0xC00400000100 = some (.wrStatus 0x100#32) := by decide
theorem test_table_word_frame : decodeTableWord 64 0x020004D202C301F4 = some (.frameMeas 0#8 1234#16 707#16 500#16) := by decide
theorem test_table_word_too_wide : decodeTableWord 48 0x1000000000000 = none ∧ decodeTableWord 64 0x10000000000000000 = none := by decide

/-- P1 and P2: the script lines' transaction words. -/
theorem test_script_words :
    scriptStart = 0xC00000000001#48 ∧ scriptProcess = 0xC00000000002#48 ∧ scriptSend = 0xC00000000003#48 ∧ scriptNop = 0xC00000000000#48
      ∧ scriptRd .STATUS = 0x400400000000#48 ∧ scriptRd .FREQ = 0x401400000000#48 ∧ scriptRdB .STATUS = 0x000400000000#48
      ∧ scriptRdH .PEAK = 0x200C00000000#48 ∧ scriptWrB .CMD 1#32 = 0x800000000001#48 ∧ scriptRdAt 0x20#6 = 0x402000000000#48
      ∧ scriptWrAt 0x3C#6 0xFFFFFFFF#32 = 0xC03CFFFFFFFF#48 ∧ scriptClr 0x100#32 = 0xC00400000100#48
      ∧ scriptWrH .CMD 1#32 = 0xA00000000001#48 := by
  decide

/-! ## The host bus: B1 to B22 -/

/-- B1. -/
theorem test_rd_cmd : muAfter (State.reset.withFetchWord 48 0x400000000000) = some { mu0 with busResp := okRead 0#32 } := by decide
/-- B2. -/
theorem test_rd_status : muAfter (State.reset.withFetchWord 48 0x400400000000) = some { mu0 with busResp := okRead 0#32 } := by decide
/-- R319: STATUS with ACQ_BUSY, RES_VALID, TX_BUSY and SQ_OVF. -/
theorem test_rd_status_bits :
    (muExec .rdStatus (withMu { mu0 with convEn := true, resValid := true, txState := .post, sqOvf := true })).map (·.busResp)
      = some (okRead 0x00000419#32) := by decide
/-- R45. -/
theorem test_rd_index : (muExec .rdIndex (withMu muFull)).map (·.busResp) = some (okRead 4#32) := by decide
/-- P1, lines 5 to 7. -/
theorem test_rd_results :
    let s := withMu { mu0 with resPeak := 100#16, resRms := 55#16, resFreq := 12500#16 }
    (muExec .rdPeak s).map (·.busResp) = some (okRead 0x64#32) ∧ (muExec .rdRms s).map (·.busResp) = some (okRead 0x37#32)
      ∧ (muExec .rdFreq s).map (·.busResp) = some (okRead 0x30D4#32) := by decide
/-- B11. -/
theorem test_rd_unmapped :
    muAfter (State.reset.withFetchWord 48 0x402000000000) = some { mu0 with busResp := okRead 0#32 }
      ∧ muAfter (State.reset.withFetchWord 48 0x401800000000) = some { mu0 with busResp := okRead 0#32 } := by decide
/-- B4: STATUS = 1 after it; TIMER_COUNT of the START cycle has counted (R142). -/
theorem test_start :
    (muAfter (State.reset.withFetchWord 48 0xC00000000001)).map (fun m => (statusWord m, m.tcnt, m.busResp)) = some (1#32, 1, okWrite) := by
  decide
/-- B5, S7. -/
theorem test_start_refused : (muExec (.start 0#24) (withMu muConv)).map statusWord = some 0x101#32 := by decide
/-- B8. -/
theorem test_start_high : (muAfter (State.reset.withFetchWord 48 0xC00000000101)).map statusWord = some 1#32 := by decide
/-- P1, line 3. -/
theorem test_process : (muExec (.process 0#24) (withMu muFull)).map (fun m => (statusWord m, m.procCnt)) = some (4#32, 2) := by decide
/-- P2, line 1. -/
theorem test_process_refused : (muAfter (State.reset.withFetchWord 48 0xC00000000002)).map statusWord = some 0x100#32 := by decide
/-- X1. -/
theorem test_send :
    (muExec (.send 0#24) (withMu { mu0 with resPeak := 1234#16, resRms := 707#16, resFreq := 500#16 })).map
      (fun m => (m.txShift, m.csN, m.sclk, m.mosi, statusWord m)) = some (0x020004D202C301F4#64, false, false, false, 0x10#32) := by decide
/-- X3. -/
theorem test_send_refused :
    muExec (.send 0#24) (withMu { mu0 with txState := .bits, txShift := 5#64, csN := false })
      = some { mu0 with txState := .bits, txShift := 5#64, csN := false, cmdErr := true, busResp := okWrite } := by decide
/-- B7. -/
theorem test_reserved : muAfter (State.reset.withFetchWord 48 0xC0000000007F) = some { mu0 with cmdErr := true, busResp := okWrite } := by
  decide
/-- B9. -/
theorem test_nop : muAfter (State.reset.withFetchWord 48 0xC00000000000) = some { mu0 with busResp := okWrite } := by decide
/-- B6, B18. -/
theorem test_wr_status :
    (muExec (.wrStatus 0x100#32) (withMu { mu0 with convEn := true, cmdErr := true })).map statusWord = some 1#32
      ∧ (muExec (.wrStatus 0x700#32) (withMu { mu0 with convEn := true, cmdErr := true, tickMissed := true, sqOvf := true })).map statusWord
        = some 1#32 := by decide
/-- B19, B20. -/
theorem test_wr_status_some :
    (muExec (.wrStatus 0x200#32) (withMu { mu0 with convEn := true, cmdErr := true, tickMissed := true })).map statusWord = some 0x101#32
      ∧ (muExec (.wrStatus 0x0FF#32) (withMu { mu0 with cmdErr := true })).map statusWord = some 0x100#32 := by decide
/-- B10. -/
theorem test_wr_read_only :
    let t := some { mu0 with busResp := okWrite }
    muExec (.wrRoIndex 1#32) State.reset = t ∧ muAfter (State.reset.withFetchWord 48 0xC00C0000FFFF) = t
      ∧ muExec (.wrRoRms 1#32) State.reset = t ∧ muExec (.wrRoFreq 1#32) State.reset = t := by decide
/-- B12. -/
theorem test_wr_unmapped :
    muAfter (State.reset.withFetchWord 48 0xC03CFFFFFFFF) = some { mu0 with busResp := okWrite }
      ∧ muExec (.wrUnmappedLo 1#1 1#32) State.reset = some { mu0 with busResp := okWrite } := by decide
/-- B13, B14, B17. -/
theorem test_bus_err_size :
    let t := some { mu0 with busResp := badAccess }
    muAfter (State.reset.withFetchWord 48 0x000400000000) = t ∧ muAfter (State.reset.withFetchWord 48 0x200C00000000) = t
      ∧ muAfter (State.reset.withFetchWord 48 0x800000000001) = t ∧ muExec (.busErrSizeR true 0#6 1#32) State.reset = t := by decide
/-- B15, B16. -/
theorem test_bus_err_align :
    muAfter (State.reset.withFetchWord 48 0x400600000000) = some { mu0 with busResp := badAccess }
      ∧ muAfter (State.reset.withFetchWord 48 0xC00100000001) = some { mu0 with busResp := badAccess } := by decide
/-- B21. -/
theorem test_internal_set_wins :
    (muAfter (withAccess 0xC00400000200#48 (withMu { muConv with tcnt := 2, tickMissed := true }))).map (·.tickMissed) = some true := by
  decide
/-- B22. -/
theorem test_reset_access :
    muAfter { State.reset with host := [.access 0xC00000000001#48], turns := [{ mu := some { rst := true }, su := none }] }
      = some { mu0 with busResp := okRead 0#32 } := by decide

/-! ## The Sampler -/

/-- S10. -/
theorem test_adc_done :
    let m := adcDone cfgP 0x264#12 { muConv with idx := 2 }
    m.blk.getD 2 0#12 = 0x264#12 ∧ m.idx = 3 ∧ m.ready = false ∧ m.adcPending = false := by decide
/-- S1, its last ADC_DONE. -/
theorem test_block_full :
    statusWord (adcDone cfgP 612#12 { muConv with idx := 3 }) = 2#32 ∧ (adcDone cfgP 612#12 { muConv with idx := 3 }).tickEn = false := by
  decide
/-- S5. -/
theorem test_stray_adc_done : adcDone cfgP 5#12 mu0 = mu0 := by decide
/-- S4, cycle 5: the tick is missed. -/
theorem test_tick_missed : (timerCount cfgP { muConv with tcnt := 2 }).tickMissed = true ∧ (timerCount cfgP { muConv with tcnt := 2 }).tcnt = 0 := by
  decide
/-- S3, cycle 5: the answer comes before the tick of the same cycle, so the tick starts the next conversion. -/
theorem test_answer_before_tick :
    (muAfter { withMu { muConv with tcnt := 2 } with
      adc := some { left := 1, reading := 7#12 }, adcDraws := [some { latency := 3, reading := 8#12 }]
      turns := [{ mu := some {}, su := none }] }).map (fun m => (m.idx, m.adcStart, m.tickMissed)) = some (1, true, false) := by decide

/-! ## The FIR engine -/

/-- F1. -/
theorem test_fir_f1 :
    (firRun cfgA [100, -100, 100, -100, 0, 0, 0, 0] { tap := List.replicate 4 0#16, tapIdx := 0 }).2 = [12, 25, 12, 0, -13, -25, -13, 0] := by
  decide
/-- F4. -/
theorem test_fir_f4 : firStep cfgP (-1) { tap := [0#16, 0#16], tapIdx := 0 } = ({ tap := [-1#16, 0#16], tapIdx := 1 }, -1) := by decide
/-- F8. -/
theorem test_fir_f8 :
    firRun cfgP [0, 300, -300, 0] { tap := [-100#16, 100#16], tapIdx := 0 } = ({ tap := [-300#16, 0#16], tapIdx := 0 }, [50, 150, 0, -150]) := by
  decide
/-- Section 2.3, centring. -/
theorem test_centre : centre cfgP 0#12 = -512 ∧ centre cfgP 512#12 = 0 ∧ centre cfgP 1023#12 = 511 ∧ centre cfgP 612#12 = 100 := by decide
/-- R174. -/
theorem test_saturation : satS16 65502 = 32767 ∧ satS16 (-65534) = -32768 ∧ asr (-1) 1 = -1 ∧ asr (-3) 1 = -2 := by decide

/-! ## The Estimator -/

/-- The columns of section 2.4 for one series. -/
def columns (n : Nat) (e : List Int) : Nat × Nat × Nat × Nat × Nat × Nat × Bool :=
  (peakRaw e, sumSq e, meanSq (cfgE n) e, rmsRaw (cfgE n) e, zeroCrossings e, freqScaled (cfgE n) e, sumSqOvf e)

/-- E2. -/
theorem test_est_e2 : columns 2 [7, 7] = (7, 98, 49, 7, 0, 0, false) := by decide
/-- E8. -/
theorem test_est_e8 : columns 4 [-32768, -32768, -32768, -32768] = (32768, 4294967295, 1073741823, 32767, 0, 0, true) := by decide
/-- E9. -/
theorem test_est_e9 : columns 2 [0, -1] = (1, 1, 0, 0, 1, 12500, false) := by decide
/-- E10. -/
theorem test_est_e10 : columns 2 [0, 1] = (1, 1, 0, 0, 0, 0, false) := by decide
/-- E11. -/
theorem test_est_e11 : columns 4 [12, 25, 12, 0] = (25, 913, 228, 15, 0, 0, false) := by decide
/-- Section 2.4, scaling. -/
theorem test_scale :
    scale { cfgP with scaleNum := 100, scaleDen := 3 } 25 = 833 ∧ scale { cfgP with scaleNum := 100, scaleDen := 3 } 15 = 500
      ∧ scale { cfgP with scaleNum := 0 } 25 = 0 ∧ scale { cfgP with scaleNum := 3 } 32768 = 65535 := by decide
/-- I1, I2. -/
theorem test_integrate :
    integrate { cfgP with integEn := true, dtScale := 3, intShift := 1 } [100, -100, 100, -100] = [150, 0, 150, 0]
      ∧ integrate { cfgP with integEn := true, dtScale := 2 } [30000, 30000, -30000, 5] = [32767, 32767, -27233, -27223] := by decide
/-- Section 2.4, isqrt. -/
theorem test_isqrt :
    [0, 1, 2, 3, 4, 8, 9, 15, 16, 24, 25, 3125, 4294836224, 4294836225, 4294967295].map isqrt
      = [0, 1, 1, 1, 2, 2, 3, 3, 4, 4, 5, 55, 65534, 65535, 65535] := by decide
/-- Section 2.4, smoothing, the second and the third input. -/
theorem test_smooth :
    smooth cfgS 150 108 { maPeak := [100#16, 0#16], maRms := [55#16, 0#16], maIdx := 1, maCnt := 1 }
        = ({ maPeak := [100#16, 150#16], maRms := [55#16, 108#16], maIdx := 0, maCnt := 2 }, 125, 81)
      ∧ smooth cfgS 50 0 { maPeak := [100#16, 150#16], maRms := [55#16, 108#16], maIdx := 0, maCnt := 2 }
        = ({ maPeak := [50#16, 150#16], maRms := [0#16, 108#16], maIdx := 1, maCnt := 2 }, 100, 54) := by decide
/-- P1: its block gives (100, 55, 12500). -/
theorem test_proc_done :
    let m := procDone cfgP { muFull with ready := false, procBusy := true }
    (m.resPeak, m.resRms, m.resFreq) = (100#16, 55#16, 12500#16) ∧ m.tap = [-100#16, 100#16] ∧ m.tapIdx = 0 ∧ statusWord m = 8#32 := by
  decide

/-! ## The Framer and the Decoder -/

/-- L1.1: the bits of the frame on the link, first to last. -/
theorem test_frame_bits :
    frameOf 1234#16 707#16 500#16 = 0x020004D202C301F4#64
      ∧ (frameBits 0x020004D202C301F4#64).take 16 = [false, false, false, false, false, false, true, false,
        false, false, false, false, false, false, false, false] := by decide
/-- X6 with SCLK_DIV = 1 and no guards: the first cycle after SEND raises `sclk` with bit 63 on the link. -/
theorem test_tx_first_bit :
    (txStep { cfgP with guardPre := 0, guardPost := 0 } { mu0 with txState := .pre, csN := false, txShift := 0x8000000000000000#64 }).2
      = [.bit true] := by decide
/-- R256: the last cycle of TX_POST raises `cs_n`. -/
theorem test_tx_last : (txStep cfgP { mu0 with txState := .post, csN := false, txCyc := 1, txBitcnt := 64 }) = ({ mu0 with txBitcnt := 64 }, [.csRise]) := by
  decide
set_option maxRecDepth 8000 in
/-- D1. -/
theorem test_frame_meas :
    (suExec (.frameMeas 0#8 1234#16 707#16 500#16) State.reset).map (fun u => (u.dispValid, dispOf u, u.rxLen, u.rxBuf))
      = some (true, (1234#16, 707#16, 500#16), 7, [0x02#8, 0x04#8, 0xD2#8, 0x02#8, 0xC3#8, 0x01#8, 0xF4#8]) := by decide
set_option maxRecDepth 8000 in
/-- D5, through a step. -/
theorem test_frame_reserved_byte :
    ((nextOf (step (State.reset.withFetchWord 64 0x02FF04D202C301F4))).map (·.su)).map (fun u => (u.dispValid, dispOf u))
      = some (true, (1234#16, 707#16, 500#16)) := by decide
set_option maxRecDepth 8000 in
/-- D2. -/
theorem test_frame_bad :
    (suExec (.frameBad 3#8 0#8 1234#16 707#16 500#16) State.reset).map (fun u => (u.dispValid, dispOf u, u.rxState))
      = some (false, (0#16, 0#16, 0#16), .idle) := by decide
set_option maxRecDepth 8000 in
/-- D3: seven bytes. -/
theorem test_short_frame :
    dispatches cfgP (LinkEvent.csFall :: (((frameBits 0x020004D202C301F4#64).take 56).map LinkEvent.bit ++ [.csRise])) (SU.reset cfgP) = [] := by
  decide
set_option maxRecDepth 8000 in
/-- D6: three extra bits. -/
theorem test_extra_bits :
    dispatches cfgP (LinkEvent.csFall :: ((frameBits 0x020004D202C301F4#64 ++ [true, true, false]).map LinkEvent.bit ++ [.csRise])) (SU.reset cfgP)
      = [{ peak := 1234#16, rms := 707#16, freq := 500#16 }] := by decide

/-! ## Reset and refusal -/

/-- Z3: a reset in the middle of a frame raises `cs_n`; Z2: the converter's request is dropped. -/
theorem test_mu_reset :
    (nextOf (step { withMu { muConv with txState := .bits, csN := false } with
      adc := some { left := 2, reading := 1#12 }, turns := [{ mu := some { rst := true }, su := none }] })).map (fun s => (s.mu, s.link, s.adc))
      = some (mu0, [.csRise], none) := by decide
/-- Z6. -/
theorem test_su_reset :
    (nextOf (step { State.reset with su := { SU.reset cfgP with rxState := .collecting, rxLen := 3 }, link := [.bit true]
                                     turns := [{ mu := none, su := some (.reset 0) }] })).map (fun s => (s.su, s.link))
      = some (SU.reset cfgP, [.bit true]) := by decide
/-- R367: a frame whose CS_FALL the SU has not observed yet is lost too when the SU is reset while the MU sends it. -/
theorem test_su_reset_loses_the_frame :
    (nextOf (step { withMu { mu0 with txState := .pre, csN := false } with
      link := [.csFall], turns := [{ mu := none, su := some (.reset 0) }] })).map (fun s => (s.su, s.link)) = some (SU.reset cfgP, []) := by
  decide
/-- R367: a second reset while the MU sends the lost frame leaves the whole frame before it on the wire. -/
theorem test_su_reset_keeps_other_frames :
    let whole : List LinkEvent := [.csFall, .bit true, .csRise]
    let busy : List LinkEvent → State := fun l =>
      { withMu { mu0 with txState := .pre, csN := false } with link := l, turns := [{ mu := none, su := some (.reset 0) }] }
    (nextOf (step (busy (whole ++ [.csFall])))).map (·.link) = some whole ∧ (nextOf (step (busy whole))).map (·.link) = some whole := by
  decide
/-- F1 of 93_implementation_defined.md: an odd K is refused. -/
theorem test_illegal_config : nextOf (step (State.resetOf { cfgP with firK := 3 })) = none := by decide
theorem test_legal_configs : cfgP.legal = true ∧ cfgA.legal = true ∧ cfgS.legal = true ∧ (cfgE 100).legal = true := by decide

/-! ## Witnesses: for each obligation with hypotheses, states and operands that meet them -/

/-- One turn of the MU alone, with these inputs. -/
def muTurn (i : MuIn) : List Turn := [{ mu := some i, su := none }]

/-- Acquiring in CFG-P with the last sample pending, the converter about to answer. -/
def lastSample : State :=
  { withMu { muConv with idx := 3 } with adc := some { left := 1, reading := 612#12 }, turns := muTurn {} }

/-- The full block, and the host about to make this access. -/
def fullThen (t : BusWord) : State := withAccess t (withMu muFull)

/-- All three sticky bits set. -/
def muSticky : MU := { mu0 with cmdErr := true, tickMissed := true, sqOvf := true }

theorem inv_lastSample : Inv lastSample :=
  { legal := by decide
    sampler := ⟨by decide, by decide, by decide, by decide, by decide, by decide, by decide, by decide, by decide⟩
    estimator := ⟨by decide, by decide, by decide, by decide, by decide, by decide, by decide, by decide, by decide⟩
    framer := ⟨by decide, ⟨rfl, rfl, rfl⟩⟩
    receiver := ⟨by decide, by decide, by decide, by decide, by decide, by decide, by decide⟩ }

theorem inv_fullThen (t : BusWord) : Inv (fullThen t) :=
  { legal := by show cfgP.legal = true; decide
    sampler := by
      show SamplerInv cfgP muFull
      exact ⟨by decide, by decide, by decide, by decide, by decide, by decide, by decide, by decide, by decide⟩
    estimator := by
      show EstimatorInv cfgP muFull
      exact ⟨by decide, by decide, by decide, by decide, by decide, by decide, by decide, by decide, by decide⟩
    framer := ⟨by show muFull.txBitcnt ≤ 64; decide, ⟨rfl, rfl, rfl⟩⟩
    receiver := by
      show ReceiverInv cfgP (SU.reset cfgP)
      exact ⟨by decide, by decide, by decide, by decide, by decide, by decide, by decide⟩ }

theorem witness_DecodeOfEncodeIsIdentity :
    (Instr.cmdReserved 0xABCDEF#24 0xFF#8).wf = true ∧ (Instr.busErrAlign2 true 0x3E#6 7#32).wf = true
      ∧ (Instr.frameBad 0xFF#8 1#8 2#16 3#16 4#16).wf = true := by decide

theorem witness_IgnoredBusBitsDoNotMatter :
    sameAccess 0xC00000000001#48 0xDFC0FFFFFF01#48 ∧ sameAccess 0xC00400000500#48 0xC004FFFFFDFF#48
      ∧ sameAccess 0x400400000000#48 0x5FC4FFFFFFFF#48 := by
  unfold sameAccess; decide

theorem witness_BusErrorExactlyForItsTwoCauses :
    busSize 0x000400000000#48 ≠ 2#2 ∧ busSize 0x600400000000#48 ≠ 2#2
      ∧ (busSize 0x403F00000000#48 = 2#2 ∧ (busAddr 0x403F00000000#48).extractLsb' 0 2 ≠ 0#2)
      ∧ (busSize 0xC03C00000000#48 = 2#2 ∧ (busAddr 0xC03C00000000#48).extractLsb' 0 2 = 0#2) := by decide

/-- One offset for each clause, and the largest `idx`. -/
theorem witness_AlignedReadAnswersRegisterValue :
    (∀ a ∈ [0x00#6, 0x04#6, 0x08#6, 0x0C#6, 0x10#6, 0x14#6, 0x18#6, 0x3C#6],
        busW (rdWord a) = false ∧ busSize (rdWord a) = 2#2 ∧ (busAddr (rdWord a)).extractLsb' 0 2 = 0#2 ∧ busAddr (rdWord a) = a)
      ∧ (withMu { mu0 with idx := 65535 }).mu.idx ≤ 65535 := by decide

theorem witness_StatusBitsAreStateImages : ∀ k ∈ [5, 7, 11, 31], 5 ≤ k ∧ k ≤ 7 ∨ 11 ≤ k := by decide

theorem witness_StartAcceptedOrRefused :
    (State.reset.mu.convEn = false ∧ State.reset.mu.procBusy = false)
      ∧ ¬((withMu muConv).mu.convEn = false ∧ (withMu muConv).mu.procBusy = false)
      ∧ ¬((withMu { mu0 with procBusy := true }).mu.convEn = false ∧ (withMu { mu0 with procBusy := true }).mu.procBusy = false) := by
  decide

theorem witness_ProcessAcceptedOrRefused :
    ((withMu muFull).mu.ready = true ∧ (withMu muFull).mu.procBusy = false)
      ∧ ¬(State.reset.mu.ready = true ∧ State.reset.mu.procBusy = false) := by decide

theorem witness_SendAcceptedOrRefused :
    State.reset.mu.txState = .idle ∧ (withMu { mu0 with txState := .post }).mu.txState ≠ .idle := by decide

theorem witness_ReservedCommandSetsCmdErr : 4 ≤ (0x04#8 : Byte).toNat ∧ 4 ≤ (0xFF#8 : Byte).toNat := by decide

theorem witness_FrameMeasDispatchesItsTriple : 7 ≤ State.reset.cfg.rxMax ∧ State.reset.su.rxBuf.length = State.reset.cfg.rxMax := by decide

theorem witness_FrameBadIsDroppedSilently :
    (∀ cmd ∈ [0x00#8, 0x01#8, 0x03#8, 0x82#8, 0xFF#8], cmd ≠ 0x02#8)
      ∧ 7 ≤ State.reset.cfg.rxMax ∧ State.reset.su.rxBuf.length = State.reset.cfg.rxMax := by decide

theorem witness_ShortCollectionIsDropped : ([] : List Bool).length < 64 ∧ (List.replicate 63 true).length < 64 := by decide

theorem witness_ExtraBitsDoNotChangeTheDispatch : 7 ≤ cfgP.rxMax ∧ (SU.reset cfgP).rxBuf.length = cfgP.rxMax := by decide

theorem witness_RxMaxIsUnobservable : 7 ≤ cfgP.rxMax ∧ 7 ≤ { cfgP with rxMax := 255 }.rxMax := by decide

theorem witness_IdleReceiverIgnoresStrayEvents : (SU.reset cfgP).rxState = .idle := by decide

theorem witness_SendProducesItsFrameOnTheLink :
    1 ≤ cfgP.sclkDiv ∧ mu0.txState = .idle ∧ txCycles cfgP = 132 ∧ txCycles { cfgP with guardPre := 0, guardPost := 0 } = 128
      ∧ 131 < txCycles cfgP := by decide

theorem witness_SentTripleIsDispatchedOnce :
    cfgP.legal = true ∧ mu0.txState = .idle ∧ (SU.reset cfgP).rxBuf.length = cfgP.rxMax ∧ (0x03#8 : Byte) ≠ 0x02#8 := by decide

theorem witness_TxStepFrame : mu0.txState = .idle := by decide

theorem witness_TimerTicksEveryPeriod :
    1 ≤ cfgP.timerPeriod ∧ { muConv with tcnt := 0 }.tickEn = true ∧ { muConv with tcnt := 0 }.tcnt = 0 ∧ 0 < cfgP.timerPeriod
      ∧ 2 < cfgP.timerPeriod := by decide

theorem witness_TickStartsOrMisses :
    muConv.convEn = true ∧ muConv.adcPending = true ∧ { muConv with adcPending := false }.convEn = true
      ∧ { muConv with adcPending := false }.adcPending = false := by decide

theorem witness_AdcDoneStoresOneSample :
    mu0.adcPending = false ∧ (muConv.adcPending = true ∧ { muConv with idx := 2 }.idx + 1 < cfgP.blockN)
      ∧ { muConv with idx := 3 }.idx + 1 = cfgP.blockN ∧ cfgP.blockN ≤ { muConv with idx := 4 }.idx := by decide

/-- The converter has `left` cycles to go in the cycle of a tick, at sample `n`. -/
def tickAt (left n : Nat) : State :=
  { withMu { muConv with idx := n, tcnt := 2 } with
    adc := some { left := left, reading := 5#12 }, adcDraws := [some { latency := 3, reading := 8#12 }], turns := muTurn {} }

/-- An answer at a tick in the middle of a block and at its end, a missed tick, and a tick with no answer listed. -/
theorem witness_AnswerBeforeTickInOneCycle :
    (∃ t, step (tickAt 1 2) = .next t ∧ t.mu.adcStart = true)
      ∧ (∃ t, step (tickAt 1 3) = .next t ∧ t.mu.adcStart = false)
      ∧ (∃ t, step (tickAt 2 2) = .next t ∧ t.mu.adcStart = false)
      ∧ (∃ t, step { tickAt 1 2 with adcDraws := [] } = .next t ∧ t.mu.adcStart = true)
      ∧ (∀ l ∈ [1, 2], ∀ n ∈ [2, 3], (nextTurn (tickAt l n)).mu = some {} ∧ ({} : MuIn).rst = false ∧ ({} : MuIn).stray = none
        ∧ (tickAt l n).adc = some { left := l, reading := 5#12 } ∧ (tickAt l n).mu.convEn = true ∧ (tickAt l n).mu.tickEn = true
        ∧ (tickAt l n).mu.adcPending = true ∧ (tickAt l n).mu.idx + 1 ≤ (tickAt l n).cfg.blockN
        ∧ (tickAt l n).mu.tcnt = (tickAt l n).cfg.timerPeriod - 1) :=
  ⟨⟨_, rfl, rfl⟩, ⟨_, rfl, rfl⟩, ⟨_, rfl, rfl⟩, ⟨_, rfl, rfl⟩, by decide⟩

theorem witness_FoldedFirEqualsDirectConvolution : cfgA.legal = true ∧ ∀ x ∈ [(-32768 : Int), 0, 32767], inS16 x := by decide

theorem witness_AccumulatorNeverOverflows : cfgA.legal = true ∧ { cfgP with accW := 33 }.legal = true := by decide

/-- Both values of INTEG_EN, and the largest reading. -/
theorem witness_SeriesStaysInSixteenBits :
    cfgA.legal = true ∧ cfgA.integEn = false ∧ { cfgA with integEn := true, dtScale := -32768, intShift := 31 }.legal = true
      ∧ ∀ r ∈ ({ mu0 with blk := [0#12, 1023#12, 512#12, 0#12] } : MU).blk, r.toNat < 2 ^ cfgA.adcBits := by decide

theorem witness_PeakIsLargestMagnitude : [(-32768 : Int)] ≠ [] ∧ ∀ v ∈ [(-32768 : Int)], inS16 v := by decide

theorem witness_RootIsExactFloor : (4294967295 : Nat) < 2 ^ 32 ∧ (0 : Nat) < 2 ^ 32 := by decide

/-- An alternating series and one whose signs agree, 0 among them. -/
theorem witness_ZeroCrossingCounts :
    (∀ j, j + 1 < [(0 : Int), -1, 1].length → ([(0 : Int), -1, 1].getD j 0 < 0 ↔ ¬ [(0 : Int), -1, 1].getD (j + 1) 0 < 0))
      ∧ (∀ j, j + 1 < [(0 : Int), 1, 2].length → ([(0 : Int), 1, 2].getD j 0 < 0 ↔ [(0 : Int), 1, 2].getD (j + 1) 0 < 0)) := by
  constructor <;> intro j hj <;> (have h2 : j = 0 ∨ j = 1 := by simp at hj; omega) <;> rcases h2 with rfl | rfl <;> decide

theorem witness_SmoothingAverageStaysInRange :
    1 ≤ 2 ∧ ∀ k, k < 2 → 55 ≤ ([55#16, 108#16].getD k 0#16).toNat ∧ ([55#16, 108#16].getD k 0#16).toNat ≤ 108 := by decide

theorem witness_ProcDoneCommitsUnsmoothed : cfgP.legal = true ∧ cfgP.smoothLen = 0 := by decide

theorem witness_ProcDoneSmoothsPeakAndRms :
    cfgS.legal = true ∧ 1 ≤ cfgS.smoothLen ∧ (MU.reset cfgS).maIdx < (MU.reset cfgS).maPeak.length
      ∧ (MU.reset cfgS).maIdx < (MU.reset cfgS).maRms.length := by decide

theorem witness_SingleSampleBlockHasFrequencyZero : (cfgE 1).blockN = 1 ∧ (cfgE 1).legal = true := by decide

theorem witness_ProcDoneAfterProcLatency :
    1 ≤ cfgP.procLatency ∧ { mu0 with procBusy := true, procCnt := 2 }.procBusy = true
      ∧ { mu0 with procBusy := true, procCnt := 2 }.procCnt = cfgP.procLatency ∧ 1 < cfgP.procLatency := by decide

theorem witness_StepKeepsInvariant : Inv lastSample ∧ ∃ t, step lastSample = .next t := ⟨inv_lastSample, _, rfl⟩

theorem witness_ResetHasInvariant : cfgA.legal = true := by decide

theorem witness_StepIsTotalOnLegalConfigurations :
    State.reset.cfg.legal = true ∧ (State.resetOf { cfgP with firK := 3 }).cfg.legal = false := by decide

theorem witness_StepRunsDecodedInstruction_bus :
    let s := withAccess scriptStart State.reset
    s.cfg.legal = true ∧ s.turns = [{ mu := some {}, su := none }] ∧ ({} : MuIn).rst = false ∧ s.host = [.access scriptStart]
      ∧ ∃ s1, exec (decodeBus scriptStart) (beginMuCycle { s with turns := [], host := [] }) = .next s1 :=
  ⟨by decide, rfl, rfl, rfl, _, rfl⟩

theorem witness_StepRunsDecodedInstruction_frame :
    let s := State.reset.withFetchWord 64 0x020004D202C301F4
    s.cfg.legal = true ∧ s.turns = [{ mu := none, su := some (.frame 0x020004D202C301F4#64) }] := by decide

/-- A running acquisition in the cycle of a tick, with this request in the converter, and the host clearing TICK_MISSED. -/
def clearAtTick (job : Option AdcJob) : State :=
  { withAccess (wrWord 0x04#6 0x200#32) (withMu { muConv with tcnt := 2, tickMissed := true }) with adc := job }

/-- A block whose series is that of E8, whose sum of squares overflows, at the last count of the processing engine. -/
def overflowAtClear : State :=
  { State.resetOf { cfgE 4 with integEn := true, dtScale := -32768 } with
    mu := { MU.reset (cfgE 4) with blk := [1#12, 0#12, 0#12, 0#12], procBusy := true, procCnt := 1 }
    host := [.access (wrWord 0x04#6 0x400#32)], turns := muTurn {} }

theorem witness_InternalSetWinsOverClear_tick :
    ∀ job ∈ [none, some { left := 2, reading := 1#12 }],
      (clearAtTick job).cfg.legal = true ∧ (nextTurn (clearAtTick job)).mu = some {} ∧ ({} : MuIn).rst = false ∧ ({} : MuIn).stray = none
        ∧ nextHostOp (clearAtTick job) = .access (wrWord 0x04#6 0x200#32) ∧ (clearAtTick job).mu.tickEn = true
        ∧ (clearAtTick job).mu.convEn = true ∧ (clearAtTick job).mu.tcnt = (clearAtTick job).cfg.timerPeriod - 1
        ∧ (clearAtTick job).mu.adcPending = true ∧ ∀ l ∈ job.map (·.left), 2 ≤ l := by decide

theorem witness_InternalSetWinsOverClear_overflow :
    overflowAtClear.cfg.legal = true ∧ (nextTurn overflowAtClear).mu = some {}
      ∧ nextHostOp overflowAtClear = .access (wrWord 0x04#6 0x400#32) ∧ overflowAtClear.mu.procBusy = true
      ∧ overflowAtClear.mu.procCnt ≤ 1 ∧ overflowAtClear.mu.adcPending = false
      ∧ sumSqOvf (series overflowAtClear.cfg overflowAtClear.mu).2 = true := by decide

theorem witness_AcceptingCycleDoesNotCount :
    let s := withAccess scriptSend State.reset
    let r := fullThen scriptProcess
    (s.cfg.legal = true ∧ s.turns = [{ mu := some {}, su := none }] ∧ s.host = [.access scriptSend] ∧ s.mu.txState = .idle)
      ∧ (r.cfg.legal = true ∧ r.turns = [{ mu := some {}, su := none }] ∧ r.host = [.access scriptProcess] ∧ r.mu.ready = true
        ∧ r.mu.procBusy = false ∧ r.mu.adcPending = false) := by decide

theorem not_in_reset {s : State} {ts : List Turn} {i : MuIn} (h : s.turns = { mu := some i, su := none } :: ts) (hi : i.rst = false) :
    ¬ muInReset s := by
  rintro ⟨j, hj, hr⟩
  simp only [nextTurn, h, List.headD_cons, Option.some.injEq] at hj
  rw [← hj, hi] at hr
  exact absurd hr (by decide)

/-- Each of the three bits is set before and clear after. -/
theorem witness_StickyBitsClearOnlyByHostOrReset :
    let s := withAccess (scriptClr 0x700#32) (withMu muSticky)
    ¬ muInReset s ∧ ∃ t, step s = .next t ∧ (s.mu.cmdErr = true ∧ t.mu.cmdErr = false) ∧ (s.mu.tickMissed = true ∧ t.mu.tickMissed = false)
      ∧ (s.mu.sqOvf = true ∧ t.mu.sqOvf = false) :=
  ⟨not_in_reset rfl rfl, _, rfl, ⟨rfl, rfl⟩, ⟨rfl, rfl⟩, rfl, rfl⟩

theorem witness_ReadyChangesOnlyAsStated_set :
    Inv lastSample ∧ ∃ t, step lastSample = .next t ∧ lastSample.mu.ready = false ∧ t.mu.ready = true :=
  ⟨inv_lastSample, _, rfl, rfl, rfl⟩

theorem witness_ReadyChangesOnlyAsStated_clear :
    ∀ x ∈ [scriptStart, scriptProcess], Inv (fullThen x) ∧ ∃ t, step (fullThen x) = .next t ∧ (fullThen x).mu.ready = true ∧ t.mu.ready = false := by
  intro x hx
  simp only [List.mem_cons, List.not_mem_nil, or_false] at hx
  rcases hx with rfl | rfl <;> exact ⟨inv_fullThen _, _, rfl, rfl, rfl⟩

theorem witness_FilterAndResultsChangeOnlyAtProcDone :
    ¬ muInReset lastSample ∧ ¬ (lastSample.mu.procBusy = true ∧ lastSample.mu.procCnt ≤ 1) ∧ ∃ t, step lastSample = .next t :=
  ⟨not_in_reset rfl rfl, by decide, _, rfl⟩

theorem witness_ParametersNeverChange : ∃ t, step lastSample = .next t := ⟨_, rfl⟩

theorem witness_UnitsShareNothingButTheLink :
    (∃ t t', step lastSample = .next t
        ∧ step { lastSample with su := { SU.reset cfgP with rxState := .collecting }, link := [.csFall] } = .next t')
      ∧ (nextTurn lastSample).su = none ∧ (nextTurn (State.reset.withFetchWord 64 0)).mu = none
      ∧ ∃ t, step (State.reset.withFetchWord 64 0) = .next t :=
  ⟨⟨_, _, rfl, rfl⟩, rfl, rfl, _, rfl⟩

/-- Each input of an SU cycle, and an observed link with and without an event. -/
theorem witness_UnitsShareNothingButTheLink_su :
    ∀ i ∈ [SuIn.idle, .observe, .event .csRise], ∀ l ∈ [[], [LinkEvent.csFall]],
      (nextTurn { State.reset with turns := [{ mu := none, su := some i }], link := l }).su = some i
        ∧ (nextTurn { State.reset with turns := [{ mu := none, su := some i }], link := l }).mu = none
        ∧ (nextOf (step { State.reset with turns := [{ mu := none, su := some i }], link := l })).isSome = true := by decide

/-- Every operation of the host: none, idle, an access, a wait that takes the 0 and one that does not. -/
theorem witness_MuResetCycle :
    ∀ h ∈ [[], [HostOp.idle], [.access scriptStart], [.wait 0x04#6 4#32 0#32], [.wait 0x04#6 2#32 2#32]],
      ({ withMu { muConv with txState := .pre, csN := false } with host := h, turns := muTurn { rst := true } } : State).cfg.legal = true
        ∧ ({ withMu { muConv with txState := .pre, csN := false } with host := h, turns := muTurn { rst := true } } : State).turns
          = [{ mu := some { rst := true }, su := none }] := by decide

/-- Idle, transmitting with the frame's CS_FALL unobserved, and transmitting with it observed. -/
theorem witness_SuResetCycle :
    let s : MU → List LinkEvent → State := fun m l =>
      { withMu m with turns := [{ mu := none, su := some (.reset 1) }], link := l }
    let tx : MU := { mu0 with txState := .bits, csN := false }
    (s mu0 [.csFall]).cfg.legal = true ∧ (s mu0 [.csFall]).turns = [{ mu := none, su := some (.reset 1) }] ∧ mu0.txState = .idle
      ∧ tx.txState ≠ .idle
      ∧ (s tx [.csRise, .csFall, .bit true]).link = [.csRise] ++ (LinkEvent.csFall :: [true].map LinkEvent.bit)
      ∧ LinkEvent.csFall ∉ (s tx [.bit true, .bit false]).link ∧ LinkEvent.csFall ∉ ([.csRise] : List LinkEvent).drop 1
      ∧ (s tx [.csFall, .csRise, .bit true]).link = [.csFall] ++ (LinkEvent.csRise :: [.bit true])
      ∧ LinkEvent.csFall ∉ [LinkEvent.bit true] := by decide

/-- A quiet MU with a full block, whose host reads, waits, or sends a command that is refused. -/
theorem witness_QuietMuStaysQuietWithoutCommand :
    Quiet muFull ∧ ¬ muInReset (fullThen (scriptRd .STATUS)) ∧ (∃ t, step (fullThen (scriptRd .STATUS)) = .next t)
      ∧ ∀ x, hostAccesses (fullThen (scriptRd .STATUS)) x → ¬ commandAccepted muFull (decodeBus x) := by
  refine ⟨⟨rfl, rfl, rfl, rfl, rfl⟩, not_in_reset rfl rfl, ⟨_, rfl⟩, ?_⟩
  rintro x ⟨i, _, _, hx⟩ ⟨hi, h | h | h⟩ <;>
    (have : x = scriptRd .STATUS := (Option.some.inj hx).symm
     subst this
     exact absurd (h.1.symm.trans (by decide : decodeBus (scriptRd .STATUS) = .rdStatus)) (by simp))

/-- A wait that is met in this cycle (`ready`) and one that is not. -/
theorem witness_WaitRepeatsUntilConditionHolds :
    let s : State := { withMu muFull with host := [.wait 0x04#6 2#32 2#32], turns := muTurn {} }
    let r : State := { State.reset with host := [.wait 0x04#6 2#32 2#32], turns := muTurn {} }
    (s.cfg.legal = true ∧ (0x04#6 : Offset).extractLsb' 0 2 = 0#2 ∧ s.turns = [{ mu := some {}, su := none }]
        ∧ s.host = [.wait 0x04#6 2#32 2#32] ∧ readVal s.mu 0x04#6 &&& 2#32 = 2#32)
      ∧ (r.cfg.legal = true ∧ r.turns = [{ mu := some {}, su := none }] ∧ r.host = [.wait 0x04#6 2#32 2#32]
        ∧ readVal r.mu 0x04#6 &&& 2#32 ≠ 2#32) := by decide

end Sys2Proof.Tests
end

section
/-! The build-time parameters in a step (R6). -/

namespace Sys2Proof.Machine

/-- The MU's part of a turn leaves the configuration, the SU and the turns alone, whether or not its clock ticks (R3, R257). -/
theorem muPart_frame {i : Option MuIn} {s t : State} (h : muPart i s = .next t) : t.cfg = s.cfg ∧ t.su = s.su ∧ t.turns = s.turns := by
  cases i with
  | none => cases h; exact ⟨rfl, rfl, rfl⟩
  | some i => exact muCycle_frame h

/-- Settles O55: a step is the MU's part of a turn and then the SU's, and neither writes the configuration. -/
theorem parametersNeverChange : Obligations.ParametersNeverChange := by
  intro s t h
  obtain ⟨_, s1, hmu, hsu⟩ := step_cases h
  calc t.cfg = s1.cfg := (suPart_frame hsu).1
    _ = (popTurn s).cfg := (muPart_frame hmu).1
    _ = s.cfg := popTurn_cfg s

end Sys2Proof.Machine
end

section
/-! The state's own statements (10_state.md): the image of the state in STATUS (R43), the reset values (R55, R56), what a bus access
leaves alone (R39, R54), the instruction of a step (R33), the sticky bits against a clear in the same cycle (R315), and the
changes of `ready` (R47). -/

namespace Sys2Proof.Machine

/-! ## STATUS -/

/-- The flags of STATUS are binary digits. -/
theorem statusDigits_le (m : MU) :
    m.convEn.toNat ≤ 1 ∧ m.ready.toNat ≤ 1 ∧ m.procBusy.toNat ≤ 1 ∧ m.resValid.toNat ≤ 1 ∧ (txBusy m).toNat ≤ 1
      ∧ m.cmdErr.toNat ≤ 1 ∧ m.tickMissed.toNat ≤ 1 ∧ m.sqOvf.toNat ≤ 1 :=
  ⟨Bool.toNat_le _, Bool.toNat_le _, Bool.toNat_le _, Bool.toNat_le _, Bool.toNat_le _, Bool.toNat_le _, Bool.toNat_le _,
    Bool.toNat_le _⟩

/-- The layout of STATUS (R43): the five live bits from bit 0 on, the three sticky bits from bit 8 on. -/
theorem statusWord_toNat (m : MU) :
    (statusWord m).toNat = m.convEn.toNat + 2 * m.ready.toNat + 4 * m.procBusy.toNat + 8 * m.resValid.toNat + 16 * (txBusy m).toNat
      + 256 * m.cmdErr.toNat + 512 * m.tickMissed.toNat + 1024 * m.sqOvf.toNat := by
  have digits := statusDigits_le m
  simp only [statusWord, flagAt, BitVec.toNat_ofNat]
  omega

/-- A bit of STATUS as a digit of its value. -/
theorem statusWord_bit {m : MU} {k : Nat} {b : Bool} (h : (statusWord m).toNat / 2 ^ k % 2 = b.toNat) :
    (statusWord m).getLsbD k = b := by
  rw [BitVec.getLsbD, Nat.testBit_eq_decide_div_mod_eq, h]
  cases b <;> rfl

/-- Settles O10: each bit is a digit of the value of STATUS, and above bit 10 the value has none. -/
theorem statusBitsAreStateImages : Obligations.StatusBitsAreStateImages := by
  intro m
  have layout := statusWord_toNat m
  have digits := statusDigits_le m
  refine ⟨statusWord_bit (by omega), statusWord_bit (by omega), statusWord_bit (by omega), statusWord_bit (by omega),
    statusWord_bit (b := txBusy m) (by omega), statusWord_bit (by omega), statusWord_bit (by omega), statusWord_bit (by omega), ?_⟩
  rintro k (⟨h5, h7⟩ | h11)
  · obtain rfl | rfl | rfl : k = 5 ∨ k = 6 ∨ k = 7 := by omega
    all_goals exact statusWord_bit (b := false) (by rw [Bool.toNat_false]; omega)
  · have small : (statusWord m).toNat < 2 ^ k := lt_of_lt_of_le (by omega : _ < 2 ^ 11) (Nat.pow_le_pow_right (by decide) h11)
    exact Nat.testBit_lt_two_pow small

/-! ## What a bus access leaves alone -/

/-- SEND puts at most CS_FALL on the link (R250). -/
theorem muSend_events (m : MU) : (muSend m).2 = [] ∨ (muSend m).2 = [.csFall] := by
  unfold muSend
  split_ifs
  · exact .inr rfl
  · exact .inl rfl

/-- Settles O17: the frame of each thing that a transaction word can do. -/
theorem busAccessFrame : Obligations.BusAccessFrame := by
  intro x s
  rcases exec_decodeBus_cases x s with e | ⟨a, e⟩ | e | ⟨d, _, e⟩ | ⟨hi, _, e⟩ | ⟨hi, _, e⟩ | ⟨hi, _, e⟩ | ⟨hi, c, _, e⟩
  all_goals exact ⟨_, e, by simp [muSend_events]⟩

/-! ## Reset -/

/-- Settles O46: the reset states of the two units, field by field. -/
theorem resetValuesAreThoseOfTheSpec : Obligations.ResetValuesAreThoseOfTheSpec := by
  intro c
  constructor
  · simp [MU.reset]
  · simp [SU.reset]

theorem inv_resetOf {c : Config} (h : c.legal = true) : Inv (State.resetOf c) := by
  have l := legal_bounds h
  obtain ⟨sampler, estimator, framer⟩ := muInv_reset l
  exact ⟨h, sampler, estimator, framer, receiverInv_reset l⟩

/-- Settles O47: the MU's and the SU's parts of the invariant hold at reset, and CFG-P is legal. -/
theorem resetHasInvariant : Obligations.ResetHasInvariant :=
  ⟨fun _ => inv_resetOf, inv_resetOf (by decide)⟩

/-! ## The instruction of a step -/

theorem step_of_legal {s : State} (h : s.cfg.legal = true) : step s = runTurn (nextTurn s) (popTurn s) := if_pos h

theorem nextTurn_of_turns {s : State} {t : Turn} {ts : List Turn} (h : s.turns = t :: ts) : nextTurn s = t := by
  rw [nextTurn, h, List.headD_cons]

theorem popTurn_of_turns {s : State} {t : Turn} {ts : List Turn} (h : s.turns = t :: ts) : popTurn s = { s with turns := ts } := by
  rw [popTurn, h, List.tail_cons]

/-- An MU cycle out of reset with an access: the decoded instruction at the state at its start, then the other positions of R33. -/
theorem muCycle_access {i : MuIn} {s s1 : State} {x : BusWord} (hr : i.rst = false) (ho : nextHostOp s = .access x)
    (he : exec (decodeBus x) (beginMuCycle (popHost s)) = .next s1) :
    muCycle i s = .next (finishMuCycle i (beginMuCycle (popHost s)).mu s1) := by
  simp only [muCycle, hr, ho, muAccessCycle, opWord, he, andThen_next, retireHost, Bool.false_eq_true, if_false]

/-- Settles O49: a turn of the MU alone is its cycle, a turn of the SU alone its part. -/
theorem stepRunsDecodedInstruction : Obligations.StepRunsDecodedInstruction := by
  constructor
  · intro s s1 i ts x hs hl ht hr hh he
    have hpop : popHost { s with turns := ts } = { s with turns := ts, host := hs } := by simp only [popHost, hh, List.tail_cons]
    have hop : nextHostOp { s with turns := ts } = .access x := by simp only [nextHostOp, hh, List.headD_cons]
    rw [← hpop] at he ⊢
    rw [step_of_legal hl, nextTurn_of_turns ht, popTurn_of_turns ht]
    show andThen (muCycle i _) (suPart none) = _
    rw [muCycle_access hr hop he]
    rfl
  · intro s ts w hl ht
    rw [step_of_legal hl, nextTurn_of_turns ht, popTurn_of_turns ht]
    rfl

/-! ## A set and a clear of a sticky bit in one cycle -/

/-- A step of a legal configuration completes. -/
theorem step_next_of_legal {s : State} (h : s.cfg.legal = true) : ∃ t, step s = .next t := by
  have hmu : ∃ s1, muPart (nextTurn s).mu (popTurn s) = .next s1 := by
    cases (nextTurn s).mu with
    | none => exact ⟨_, rfl⟩
    | some i => exact muCycle_next i _
  obtain ⟨s1, h1⟩ := hmu
  have hsu : ∃ t, suPart (nextTurn s).su s1 = .next t := by
    cases (nextTurn s).su with
    | none => exact ⟨_, rfl⟩
    | some i => exact suCycle_next i _
  obtain ⟨t, h2⟩ := hsu
  exact ⟨t, (step_of_legal h).trans (andThen_eq_next.mpr ⟨s1, h1, h2⟩)⟩

/-- A step with a write to STATUS: the rest of the MU cycle runs at the state that the clear has left (R33). -/
theorem step_mu_wrStatus {s t : State} {i : MuIn} {d : Word} (h : step s = .next t) (hm : (nextTurn s).mu = some i)
    (hr : i.rst = false) (ho : nextHostOp s = .access (wrWord 0x04#6 d)) :
    ∃ s1 : State, s1.cfg = s.cfg ∧ s1.adc = s.adc
      ∧ s1.mu = { statusW1C d s.mu with adcStart := false, busResp := some { rdata := none, err := false } }
      ∧ t.mu = (finishMuCycle i (beginMuCycle s).mu s1).mu := by
  obtain ⟨s1, t1, hs, rfl, hsu⟩ := step_in_muCycle h hm hr
  obtain ⟨hst, e⟩ := retireHost_eq (nextHostOp s) (finishMuCycle i (beginMuCycle s).mu s1)
  have htmu : t.mu = (finishMuCycle i (beginMuCycle s).mu s1).mu := by rw [(suPart_frame hsu).2.1, e]
  have hd : decodeBus (wrWord 0x04#6 d) = .wrStatus d := decodeBus_wrWord _ _ (by decide) (by decide)
  rcases hs with ⟨hn, _⟩ | ⟨x, hx, hex⟩
  · rw [ho] at hn; cases hn
  · rw [ho] at hx; cases hx
    rw [hd] at hex
    have hs1 : s1 = respondWrite ((beginMuCycle (popHost (popTurn s))).onMu (statusW1C d)) := (Host.Outcome.next.inj hex).symm
    exact ⟨s1, by simp [hs1], by simp [hs1], by simp [hs1, statusW1C], htmu⟩

/-- Position (2) brings no ADC_DONE while the converter is silent or has at least two cycles to go (R145). -/
theorem adcPhase_mu_of_not_due (s : State) (h : ∀ j, s.adc = some j → 2 ≤ j.left) : (adcPhase none s).mu = s.mu := by
  unfold adcPhase
  cases ha : s.adc with
  | none => rfl
  | some j =>
    have hj : ¬ j.left ≤ 1 := by have := h j ha; omega
    simp only [converterCycle, hj, if_false]
    rfl

theorem adcPhase_cfg (stray : Option Reading) (s : State) : (adcPhase stray s).cfg = s.cfg := by
  obtain ⟨a, e | ⟨v, e⟩⟩ := adcPhase_eq stray s
  all_goals rw [e]

theorem timerPhase_mu (s : State) : (timerPhase s).mu = timerCount s.cfg s.mu := by
  obtain ⟨a, ds, n, e⟩ := timerPhase_eq s
  rw [e]

/-- A tick that finds a conversion pending is missed (R144). -/
theorem timerCount_missed {c : Config} {m : MU} (ht : m.tickEn = true) (hc : m.convEn = true) (hn : m.tcnt = c.timerPeriod - 1)
    (hp : m.adcPending = true) : (timerCount c m).tickMissed = true := by
  simp [timerCount, tick, setTickMissed, ht, hc, hn, hp]

/-- The rest of a cycle with a missed tick leaves TICK_MISSED 1, whatever it was. -/
theorem finishMuCycle_tickMissed {i : MuIn} {m0 : MU} {s : State} (ht : s.mu.tickEn = true) (hc : s.mu.convEn = true)
    (hn : s.mu.tcnt = s.cfg.timerPeriod - 1) (hp : s.mu.adcPending = true) (hi : i.stray = none)
    (ha : ∀ j, s.adc = some j → 2 ≤ j.left) : (finishMuCycle i m0 s).mu.tickMissed = true := by
  obtain ⟨-, -, -, -, -, -, -, -, -, -, -, e⟩ := finishMuCycle_keeps i m0 s
  rw [e, timerPhase_mu, adcPhase_cfg, hi, adcPhase_mu_of_not_due s ha]
  exact timerCount_missed ht hc hn hp

/-- An ADC_DONE without a pending conversion is ignored (R148). -/
theorem adcDone_of_not_pending {c : Config} {v : Reading} {m : MU} (h : m.adcPending = false) : adcDone c v m = m := by
  simp only [adcDone, h, Bool.false_eq_true, if_false]

/-- PROC_DONE sets SQ_OVF when the sum of squares overflows, whatever it was (R205). -/
theorem procCount_sqOvf_set {c : Config} {m : MU} (hb : m.procBusy = true) (hc : m.procCnt ≤ 1)
    (ho : sumSqOvf (series c m).2 = true) : (procCount c m).sqOvf = true := by
  have hs : series c { m with procCnt := m.procCnt - 1 } = series c m := series_congr rfl rfl rfl
  rw [procCount_due hb hc, procDone_sqOvf, hs, ho, Bool.or_true]

/-- The rest of a cycle with a PROC_DONE whose sum of squares overflows leaves SQ_OVF 1, whatever it was. -/
theorem finishMu_sqOvf {c : Config} {m0 m : MU} {v : Option Reading} (h0 : m0.procBusy = true) (hb : m.procBusy = true)
    (hc : m.procCnt ≤ 1) (hp : m.adcPending = false) (ho : sumSqOvf (series c m).2 = true) :
    (finishMu c m0 v m).1.sqOvf = true := by
  obtain ⟨m2, m4, h2, h4, h5⟩ := finishMu_eq c m0 v m
  obtain rfl : m2 = m := by
    rcases h2 with rfl | ⟨r, rfl⟩
    · rfl
    · exact adcDone_of_not_pending hp
  have hovf : m4.sqOvf = true := by
    rcases h4 with ⟨hn, _⟩ | ⟨_, rfl⟩
    · rw [h0] at hn; cases hn
    · have hs : series c (timerCount c m2) = series c m2 := series_congr (by simp) (by simp) (by simp)
      exact procCount_sqOvf_set (by simpa using hb) (by simpa using hc) (hs ▸ ho)
  rcases h5 with ⟨_, e⟩ | ⟨_, e⟩
  · rw [e, hovf]
  · rw [e, txStep_sqOvf, hovf]

/-- Settles O50: the clear is in position (1) of R33, and the sets in (3) and (4) do not look at the bit's old value. -/
theorem internalSetWinsOverClear : Obligations.InternalSetWinsOverClear := by
  intro s i d hl hm hr ho
  obtain ⟨t, h⟩ := step_next_of_legal hl
  obtain ⟨s1, hcfg, hadc, hmu, e⟩ := step_mu_wrStatus h hm hr ho
  refine ⟨t, h, ?_, ?_⟩
  · intro ht hc hn hp hi ha
    rw [e]
    exact finishMuCycle_tickMissed (by simpa [hmu] using ht) (by simpa [hmu] using hc) (by simpa [hmu, hcfg] using hn)
      (by simpa [hmu] using hp) hi (by simpa [hadc] using ha)
  · intro hb hc hp hovf
    obtain ⟨v, a, ds, n, ef⟩ := finishMuCycle_eq i (beginMuCycle s).mu s1
    have hs : series s.cfg s1.mu = series s.cfg s.mu := series_congr (by simp [hmu]) (by simp [hmu]) (by simp [hmu])
    rw [e, ef, hcfg]
    exact finishMu_sqOvf (by simpa using hb) (by simpa [hmu] using hb) (by simpa [hmu] using hc) (by simpa [hmu] using hp)
      (by rw [hs]; exact hovf)

/-! ## The changes of `ready` -/

/-- A step in MU reset leaves the reset values, and the response to an access of the cycle (R360). -/
theorem step_mu_in_reset {s t : State} (h : step s = .next t) (hr : muInReset s) :
    t.mu = { MU.reset s.cfg with busResp := resetResp (nextHostOp s) } := by
  obtain ⟨i, hm, hi⟩ := hr
  obtain ⟨_, s1, h1, h2⟩ := step_cases h
  rw [hm] at h1
  rw [(suPart_frame h2).2.1]
  rcases muCycle_cases h1 with ⟨_, rfl⟩ | ⟨hi', _⟩
  · obtain ⟨hst, e⟩ := retireHost_eq (nextHostOp (popTurn s))
      (muResetCycle (nextHostOp (popTurn s)) (beginMuCycle (popHost (popTurn s))))
    rw [e]
    rfl
  · rw [hi] at hi'; cases hi'

/-- ADC_DONE leaves `ready`, or it stores the last sample and ends the acquisition (R147). -/
theorem adcDone_ready_cases (c : Config) (v : Reading) (m : MU) :
    (adcDone c v m).ready = m.ready
    ∨ (m.adcPending = true ∧ m.idx + 1 = c.blockN ∧ (adcDone c v m).ready = true ∧ (adcDone c v m).idx = c.blockN
      ∧ (adcDone c v m).convEn = false) := by
  unfold adcDone
  dsimp only
  split_ifs with hp hi hN
  · exact .inr ⟨hp, hN, rfl, hN, rfl⟩
  · exact .inl rfl
  · exact .inl rfl
  · exact .inl rfl

/-- In the positions (2) to (5) of R33 only ADC_DONE touches `ready`, `idx` and `conv_en`. -/
theorem finishMu_sampler (c : Config) (m0 : MU) (v : Option Reading) (m : MU) :
    ∃ m2, (m2 = m ∨ ∃ r, m2 = adcDone c (adcPort c r) m) ∧ (finishMu c m0 v m).1.ready = m2.ready
      ∧ (finishMu c m0 v m).1.idx = m2.idx ∧ (finishMu c m0 v m).1.convEn = m2.convEn := by
  obtain ⟨m2, m4, h2, h4, h5⟩ := finishMu_eq c m0 v m
  refine ⟨m2, h2, ?_⟩
  have h4' : m4.ready = m2.ready ∧ m4.idx = m2.idx ∧ m4.convEn = m2.convEn := by
    rcases h4 with ⟨_, rfl⟩ | ⟨_, rfl⟩
    · simp
    · simp
  rcases h5 with ⟨_, e⟩ | ⟨_, e⟩
  · rw [e]; exact h4'
  · rw [e]; simpa using h4'

/-- The rest of an MU cycle leaves `ready`, or it stores the last sample and ends the acquisition. -/
theorem finishMu_ready_cases (c : Config) (m0 : MU) (v : Option Reading) (m : MU) :
    (finishMu c m0 v m).1.ready = m.ready
    ∨ (m.adcPending = true ∧ m.idx + 1 = c.blockN ∧ (finishMu c m0 v m).1.ready = true ∧ (finishMu c m0 v m).1.idx = c.blockN
      ∧ (finishMu c m0 v m).1.convEn = false) := by
  obtain ⟨m2, h2, er, ei, ec⟩ := finishMu_sampler c m0 v m
  rw [er, ei, ec]
  rcases h2 with rfl | ⟨r, rfl⟩
  · exact .inl rfl
  · exact adcDone_ready_cases c _ m

/-- START leaves `ready`, or it is accepted and clears it (R141). -/
theorem muStart_ready_cases (m : MU) :
    (muStart m).ready = m.ready ∨ ((muStart m).ready = false ∧ m.convEn = false ∧ m.procBusy = false) := by
  unfold muStart
  split_ifs with hacc
  · exact .inr ⟨rfl, hacc⟩
  · exact .inl rfl

/-- PROCESS leaves `ready`, or it is accepted and clears it (R200). -/
theorem muProcess_ready_cases (c : Config) (m : MU) :
    (muProcess c m).ready = m.ready ∨ ((muProcess c m).ready = false ∧ m.ready = true ∧ m.procBusy = false) := by
  unfold muProcess
  split_ifs with hacc
  · exact .inr ⟨rfl, hacc⟩
  · exact .inl rfl

/-- A bus access leaves `ready`, or it is an accepted START or PROCESS and clears it. -/
theorem access_ready_cases {x : BusWord} {s s1 : State} (h : exec (decodeBus x) s = .next s1) :
    s1.mu.ready = s.mu.ready
    ∨ (s1.mu.ready = false ∧ ∃ hi, decodeBus x = .start hi ∧ s.mu.convEn = false ∧ s.mu.procBusy = false
        ∨ decodeBus x = .process hi ∧ s.mu.ready = true ∧ s.mu.procBusy = false) := by
  rcases exec_decodeBus_cases x s with e | ⟨a, e⟩ | e | ⟨d, _, e⟩ | ⟨hi, hd, e⟩ | ⟨hi, hd, e⟩ | ⟨hi, _, e⟩ | ⟨hi, c, _, e⟩
  all_goals (rw [e] at h; cases h)
  · exact .inl rfl
  · exact .inl rfl
  · exact .inl rfl
  · exact .inl rfl
  · rcases muStart_ready_cases s.mu with ek | ⟨ec, hacc⟩
    · exact .inl ek
    · exact .inr ⟨ec, hi, .inl ⟨hd, hacc⟩⟩
  · rcases muProcess_ready_cases s.cfg s.mu with ek | ⟨ec, hacc⟩
    · exact .inl ek
    · exact .inr ⟨ec, hi, .inr ⟨hd, hacc⟩⟩
  · exact .inl (muSend_ready s.mu)
  · exact .inl rfl

/-- What the access position of a turn hands to the rest of the cycle (R33): `ready` as it was or cleared by an accepted START or
PROCESS, a pending conversion as it was, and the index of a running acquisition. -/
theorem position1_sampler {s s1 : State}
    (h : (opWord (nextHostOp s) = none ∧ s1 = beginMuCycle (popHost (popTurn s)))
      ∨ ∃ x, opWord (nextHostOp s) = some x ∧ exec (decodeBus x) (beginMuCycle (popHost (popTurn s))) = .next s1) :
    (s1.mu.ready = s.mu.ready
      ∨ (s1.mu.ready = false ∧ ∃ x hi, opWord (nextHostOp s) = some x
        ∧ (decodeBus x = .start hi ∧ s.mu.convEn = false ∧ s.mu.procBusy = false
          ∨ decodeBus x = .process hi ∧ s.mu.ready = true ∧ s.mu.procBusy = false)))
      ∧ s1.mu.adcPending = s.mu.adcPending ∧ (s.mu.convEn = true → s1.mu.idx = s.mu.idx) := by
  rcases h with ⟨_, rfl⟩ | ⟨x, hx, hex⟩
  · exact ⟨.inl rfl, rfl, fun _ => rfl⟩
  · obtain ⟨-, -, -, -, hp, -, hidx, -⟩ := access_keeps_converter hex
    refine ⟨?_, hp, fun hc => (hidx hc).2.2.2⟩
    rcases access_ready_cases hex with e | ⟨e, hi, hacc⟩
    · exact .inl e
    · exact .inr ⟨e, x, hi, hx, hacc⟩

/-- Settles O53: a step is a reset of the MU, none of its cycles, or an access and the rest of the cycle; only an accepted command
clears `ready`, and only the last ADC_DONE sets it. -/
theorem readyChangesOnlyAsStated : Obligations.ReadyChangesOnlyAsStated := by
  intro s t hinv h
  by_cases hr : muInReset s
  · have ht : t.mu.ready = false := by rw [step_mu_in_reset h hr]; rfl
    exact ⟨fun _ h1 => absurd (ht.symm.trans h1) (by decide), fun _ _ => .inl hr⟩
  rcases step_mu h hr with ⟨e, _⟩ | ⟨i, s1, v, hm, hi, hs, e⟩
  · rw [e]
    exact ⟨fun h0 h1 => absurd (h0.symm.trans h1) (by decide), fun h1 h0 => absurd (h0.symm.trans h1) (by decide)⟩
  · obtain ⟨haccess, hpend, hidx⟩ := position1_sampler hs
    have hrest := finishMu_ready_cases s.cfg (beginMuCycle s).mu v s1.mu
    rw [← e] at hrest
    constructor
    · intro h0 h1
      have hs1 : s1.mu.ready = false := by
        rcases haccess with hk | ⟨hc, _⟩
        · exact hk.trans h0
        · exact hc
      rcases hrest with hk | ⟨hp, hN, _, hti, htc⟩
      · rw [hk, hs1] at h1; cases h1
      · have hps : s.mu.adcPending = true := hpend ▸ hp
        exact ⟨hps, hidx (hinv.sampler.pendingWhileConv hps) ▸ hN, hti, htc⟩
    · intro h1 h0
      rcases hrest with hk | ⟨_, _, hset, _⟩
      · rcases haccess with hk1 | ⟨_, x, hi', hx, hacc⟩
        · rw [hk, hk1, h1] at h0; cases h0
        · exact .inr ⟨x, hi', ⟨i, hm, hi, hx⟩, hacc⟩
      · rw [hset] at h0; cases h0

end Sys2Proof.Machine
end

section
/-! Encoding and decoding (30_encoding.md): what a transaction word decodes to by its fields, the round trips (R101, R103, R110), the
opcode table (R116), the bits that no access examines (R104, R105), the STATUS write (R315) and the waiting host (R107). -/

namespace Sys2Proof.Machine

/-! ## Decoding by the fields of the word -/

/-- Word-aligned is: both low bits of the offset are 0. -/
theorem aligned_iff : ∀ a : Offset, a.extractLsb' 0 2 = 0#2 ↔ a.getLsbD 0 = false ∧ a.getLsbD 1 = false := by decide

/-- R332: an access has no BusError exactly when it is a 32-bit access at a word-aligned offset. -/
theorem busErrCause_eq_none_iff {t : BusWord} :
    busErrCause t = none ↔ busSize t = 2#2 ∧ (busAddr t).extractLsb' 0 2 = 0#2 := by
  unfold busErrCause
  split_ifs with hz ha <;> simp_all

/-- R102 steps 1 and 2: the five rows of an access with a BusError keep every field of the word. -/
theorem decodeBus_error_cases {t : BusWord} (h : busErrCause t ≠ none) :
    (busSize t = 0#2 ∧ decodeBus t = .busErrSizeB (busW t) (busAddr t) (busData t))
    ∨ (busSize t = 1#2 ∧ decodeBus t = .busErrSizeH (busW t) (busAddr t) (busData t))
    ∨ (busSize t = 3#2 ∧ decodeBus t = .busErrSizeR (busW t) (busAddr t) (busData t))
    ∨ (busSize t = 2#2 ∧ align1Ok (busAddr t) = true ∧ decodeBus t = .busErrAlign1 (busW t) (busAddr t) (busData t))
    ∨ (busSize t = 2#2 ∧ align2Ok (busAddr t) = true ∧ decodeBus t = .busErrAlign2 (busW t) (busAddr t) (busData t)) := by
  rcases size_cases (busSize t) with hz | hz | hz | hz
  · exact .inl ⟨hz, by simp [decodeBus, hz]⟩
  · exact .inr (.inl ⟨hz, by simp [decodeBus, hz]⟩)
  · cases h0 : (busAddr t).getLsbD 0 with
    | true => exact .inr (.inr (.inr (.inl ⟨hz, h0, by simp only [decodeBus, hz, h0]; rfl⟩)))
    | false =>
      have h1 : (busAddr t).getLsbD 1 = true := by
        by_contra h1
        exact h (busErrCause_eq_none_iff.mpr ⟨hz, aligned_of_bits _ h0 (by simpa using h1)⟩)
      exact .inr (.inr (.inr (.inr ⟨hz, by rw [align2Ok, h0, h1]; rfl, by simp only [decodeBus, hz, h0, h1]; rfl⟩)))
  · exact .inr (.inr (.inl ⟨hz, by simp [decodeBus, hz]⟩))

/-- R102 steps 3 to 7: an access without a BusError is decoded by its offset, and a write by its data. -/
theorem decodeBus_performed {t : BusWord} (h : busErrCause t = none) :
    decodeBus t = if busW t = false then decodeRead (busAddr t) else decodeWrite (busAddr t) (busData t) := by
  obtain ⟨hz, ha⟩ := busErrCause_eq_none_iff.mp h
  obtain ⟨h0, h1⟩ := (aligned_iff _).mp ha
  simp only [decodeBus, hz, h0, h1]
  rfl

/-! ## From an instruction to its word and back -/

/-- Settles O1: the word of each constructor, taken apart again by its fields. -/
theorem decodeOfEncodeIsIdentity : Obligations.DecodeOfEncodeIsIdentity := by
  intro i hwf
  cases i with
  | busErrSizeB w a d => exact decodeBus_busWord w 0#2 a d
  | busErrSizeH w a d => exact decodeBus_busWord w 1#2 a d
  | busErrSizeR w a d => exact decodeBus_busWord w 3#2 a d
  | busErrAlign1 w a d =>
    have h0 : a.getLsbD 0 = true := hwf
    exact (decodeBus_busWord w 2#2 a d).trans (by rw [h0]; rfl)
  | busErrAlign2 w a d =>
    obtain ⟨h0, h1⟩ : a.getLsbD 0 = false ∧ a.getLsbD 1 = true := by simpa [Instr.wf, align2Ok] using hwf
    exact (decodeBus_busWord w 2#2 a d).trans (by rw [h0, h1]; rfl)
  | rdCmd => exact decodeBus_rdWord 0x00#6 rfl rfl
  | rdStatus => exact decodeBus_rdWord 0x04#6 rfl rfl
  | rdIndex => exact decodeBus_rdWord 0x08#6 rfl rfl
  | rdPeak => exact decodeBus_rdWord 0x0C#6 rfl rfl
  | rdRms => exact decodeBus_rdWord 0x10#6 rfl rfl
  | rdFreq => exact decodeBus_rdWord 0x14#6 rfl rfl
  | rdUnmappedLo sel =>
    obtain ⟨h0, h1, _⟩ := unmappedLo_facts sel
    exact (decodeBus_rdWord _ h0 h1).trans (decodeRead_lo sel)
  | rdUnmappedHi sel =>
    obtain ⟨h0, h1, _⟩ := unmappedHi_facts sel
    exact (decodeBus_rdWord _ h0 h1).trans (decodeRead_hi sel)
  | nop hi => exact decodeBus_cmd hi 0x00#8
  | start hi => exact decodeBus_cmd hi 0x01#8
  | process hi => exact decodeBus_cmd hi 0x02#8
  | send hi => exact decodeBus_cmd hi 0x03#8
  | cmdReserved hi code =>
    have hc : ∀ c : Byte, reservedCode c = true → c ≠ 0#8 ∧ c ≠ 1#8 ∧ c ≠ 2#8 ∧ c ≠ 3#8 := by decide
    obtain ⟨c0, c1, c2, c3⟩ := hc code hwf
    exact (decodeBus_cmd hi code).trans (by simp [c0, c1, c2, c3])
  | wrStatus d => exact decodeBus_wrWord 0x04#6 d rfl rfl
  | wrRoIndex d => exact decodeBus_wrWord 0x08#6 d rfl rfl
  | wrRoPeak d => exact decodeBus_wrWord 0x0C#6 d rfl rfl
  | wrRoRms d => exact decodeBus_wrWord 0x10#6 d rfl rfl
  | wrRoFreq d => exact decodeBus_wrWord 0x14#6 d rfl rfl
  | wrUnmappedLo sel d =>
    obtain ⟨h0, h1, _⟩ := unmappedLo_facts sel
    exact (decodeBus_wrWord _ d h0 h1).trans (decodeWrite_lo sel d)
  | wrUnmappedHi sel d =>
    obtain ⟨h0, h1, _⟩ := unmappedHi_facts sel
    exact (decodeBus_wrWord _ d h0 h1).trans (decodeWrite_hi sel d)
  | frameMeas rsvd p r f => exact decodeFrame_frameWord 0x02#8 rsvd p r f
  | frameBad cmd rsvd p r f =>
    have hc : cmd ≠ 0x02#8 := by simpa [Instr.wf, badSentinel] using hwf
    exact (decodeFrame_frameWord cmd rsvd p r f).trans (if_neg hc)

/-! ## From a word to its instruction and back -/

/-- A read row stands for its offset and nothing else. -/
theorem encode_decodeRead : ∀ a : Offset, a.extractLsb' 0 2 = 0#2 →
    (decodeRead a).wf = true ∧ encode (decodeRead a) = .bus (rdWord a) := by decide

/-- A command row keeps DATA[31:8] and, where it is not fixed by the row, the code. -/
theorem encode_decodeCmd (d : Word) : (decodeCmd d).wf = true ∧ encode (decodeCmd d) = .bus (wrWord 0x00#6 d) := by
  have eta : ∀ c, cmdCode d = c → cmdData (cmdHi d) c = d := by rintro _ rfl; exact cmdData_eta d
  have reserved : ∀ c : Byte, c ≠ 0#8 → c ≠ 1#8 → c ≠ 2#8 → c ≠ 3#8 → reservedCode c = true := by decide
  unfold decodeCmd
  split_ifs with h0 h1 h2 h3
  · exact ⟨rfl, by rw [encode, eta _ h0]⟩
  · exact ⟨rfl, by rw [encode, eta _ h1]⟩
  · exact ⟨rfl, by rw [encode, eta _ h2]⟩
  · exact ⟨rfl, by rw [encode, eta _ h3]⟩
  · exact ⟨reserved _ h0 h1 h2 h3, by rw [encode, eta _ rfl]⟩

/-- A write row stands for its offset and its data. -/
theorem encode_decodeWrite {a : Offset} (d : Word) (ha : a.extractLsb' 0 2 = 0#2) :
    (decodeWrite a d).wf = true ∧ encode (decodeWrite a d) = .bus (wrWord a d) := by
  obtain ⟨h0, h1⟩ := (aligned_iff a).mp ha
  rcases aligned_offsets a h0 h1 with rfl | rfl | rfl | rfl | rfl | rfl | ⟨sel, rfl⟩ | ⟨sel, rfl⟩
  · exact encode_decodeCmd d
  · exact ⟨rfl, rfl⟩
  · exact ⟨rfl, rfl⟩
  · exact ⟨rfl, rfl⟩
  · exact ⟨rfl, rfl⟩
  · exact ⟨rfl, rfl⟩
  · rw [decodeWrite_lo]; exact ⟨rfl, rfl⟩
  · rw [decodeWrite_hi]; exact ⟨rfl, rfl⟩

/-- An access with a BusError is encoded with all its fields. -/
theorem canonicalBus_error {t : BusWord} (h : busErrCause t ≠ none) :
    canonicalBus t = busWord (busW t) (busSize t) (busAddr t) (busData t) := by
  rw [canonicalBus, if_neg (fun hc => h hc.1)]

theorem canonicalBus_read {t : BusWord} (h : busErrCause t = none) (hw : busW t = false) :
    canonicalBus t = rdWord (busAddr t) := by
  rw [canonicalBus, if_pos ⟨h, hw⟩, hw, (busErrCause_eq_none_iff.mp h).1, rdWord]

theorem canonicalBus_write {t : BusWord} (h : busErrCause t = none) (hw : busW t = true) :
    canonicalBus t = wrWord (busAddr t) (busData t) := by
  rw [canonicalBus, if_neg (fun hc => by rw [hw] at hc; cases hc.2), hw, (busErrCause_eq_none_iff.mp h).1, wrWord]

/-- R101: a transaction word decodes to a well-formed instruction, which encodes to the word without its ignored bits. -/
theorem encode_decodeBus (t : BusWord) :
    (decodeBus t).wf = true ∧ encode (decodeBus t) = .bus (canonicalBus t) := by
  by_cases h : busErrCause t = none
  · have ha := (busErrCause_eq_none_iff.mp h).2
    rw [decodeBus_performed h]
    cases hw : busW t with
    | false => rw [if_pos rfl, canonicalBus_read h hw]; exact encode_decodeRead _ ha
    | true => rw [if_neg (by decide), canonicalBus_write h hw]; exact encode_decodeWrite _ ha
  · rw [canonicalBus_error h]
    rcases decodeBus_error_cases h with ⟨hz, e⟩ | ⟨hz, e⟩ | ⟨hz, e⟩ | ⟨hz, hwf, e⟩ | ⟨hz, hwf, e⟩
    · rw [e, hz]; exact ⟨rfl, rfl⟩
    · rw [e, hz]; exact ⟨rfl, rfl⟩
    · rw [e, hz]; exact ⟨rfl, rfl⟩
    · rw [e, hz]; exact ⟨hwf, rfl⟩
    · rw [e, hz]; exact ⟨hwf, rfl⟩

/-- R110: a frame decodes to a well-formed instruction, which encodes to the frame. -/
theorem encode_decodeFrame (w : FrameWord) : (decodeFrame w).wf = true ∧ encode (decodeFrame w) = .frame w := by
  unfold decodeFrame
  split_ifs with hc
  · exact ⟨rfl, by rw [encode, ← hc, frameWord_eta]⟩
  · exact ⟨decide_eq_true hc, by rw [encode, frameWord_eta]⟩

/-- Settles O2: the round trip of a transaction word and that of a frame. -/
theorem encodeOfDecodeIsCanonical : Obligations.EncodeOfDecodeIsCanonical :=
  ⟨encode_decodeBus, encode_decodeFrame⟩

/-! ## The opcode table -/

/-- No row of the table examines bits 44:38. -/
theorem busRows_fields : ∀ r ∈ busRows,
    r.mask = busWord (busW r.mask) (busSize r.mask) (busAddr r.mask) (busData r.mask)
      ∧ r.pattern = busWord (busW r.pattern) (busSize r.pattern) (busAddr r.pattern) (busData r.pattern) := by decide

/-- The rows that examine DATA are those of writes. -/
theorem busRows_data_of_write : ∀ r ∈ busRows,
    busData r.mask = 0#32 ∨ busW r.mask = true ∧ busW r.pattern = true := by decide

/-- A row of priority 0 asks for a SIZE other than 2 or for one of the low bits of ADDR. -/
theorem busRows_priority_zero : ∀ r ∈ busRows, r.priority = 0 →
    busSize r.mask = 3#2 ∧ busSize r.pattern ≠ 2#2 ∨ busAddr r.mask = 1#6 ∧ busAddr r.pattern = 1#6
      ∨ busAddr r.mask = 2#6 ∧ busAddr r.pattern = 2#6 := by decide

/-- A row of priority 1 is a read's, that of a write at another offset than CMD's, or that of a command with a code below 4. -/
theorem busRows_priority_one : ∀ r ∈ busRows, r.priority = 1 →
    busW r.mask = true ∧ busW r.pattern = false ∨ busAddr r.pattern ≠ 0x00#6
      ∨ busData r.mask = 0xFF#32 ∧ reservedCode (cmdCode (busData r.pattern)) = false := by decide

/-- When a word matches a row, field by field. -/
theorem row_matches_iff {r : BusRow} (hr : r ∈ busRows) {t : BusWord} :
    r.Matches t ↔ (busW t && busW r.mask) = busW r.pattern ∧ busSize t &&& busSize r.mask = busSize r.pattern
      ∧ busAddr t &&& busAddr r.mask = busAddr r.pattern ∧ busData t &&& busData r.mask = busData r.pattern :=
  matches_iff _ _ _ _ _ _ _ _ (busRows_fields r hr).1 (busRows_fields r hr).2

/-- The bits that decoding does not examine decide no match. -/
theorem row_matches_canonicalBus_iff {r : BusRow} (hr : r ∈ busRows) {t : BusWord} :
    r.Matches (canonicalBus t) ↔ r.Matches t := by
  rw [row_matches_iff hr, row_matches_iff hr, canonicalBus, busW_busWord, busSize_busWord, busAddr_busWord, busData_busWord]
  split_ifs with hread
  · rcases busRows_data_of_write r hr with hd | ⟨hm, hp⟩
    · rw [hd, BitVec.and_zero, BitVec.and_zero]
    · simp [hread.2, hm, hp]
  · rfl

/-- The encoded word of a well-formed instruction matches the row that bears its mnemonic. -/
theorem encode_matches_row {i : Instr} (hwf : i.wf = true) {t : BusWord} (he : encode i = .bus t) :
    ∃ r ∈ busRows, r.mnemonic = i.mnemonic ∧ r.Matches t := by
  have hm : Laws.TableRow.Matches i := by
    cases i with
    | busErrSizeB w a d => exact Laws.TableRow.busErrSizeB w a d hwf
    | busErrSizeH w a d => exact Laws.TableRow.busErrSizeH w a d hwf
    | busErrSizeR w a d => exact Laws.TableRow.busErrSizeR w a d hwf
    | busErrAlign1 w a d => exact Laws.TableRow.busErrAlign1 w a d hwf
    | busErrAlign2 w a d => exact Laws.TableRow.busErrAlign2 w a d hwf
    | rdCmd => exact Laws.TableRow.rdCmd hwf
    | rdStatus => exact Laws.TableRow.rdStatus hwf
    | rdIndex => exact Laws.TableRow.rdIndex hwf
    | rdPeak => exact Laws.TableRow.rdPeak hwf
    | rdRms => exact Laws.TableRow.rdRms hwf
    | rdFreq => exact Laws.TableRow.rdFreq hwf
    | rdUnmappedLo sel => exact Laws.TableRow.rdUnmappedLo sel hwf
    | rdUnmappedHi sel => exact Laws.TableRow.rdUnmappedHi sel hwf
    | nop hi => exact Laws.TableRow.nop hi hwf
    | start hi => exact Laws.TableRow.start hi hwf
    | process hi => exact Laws.TableRow.process hi hwf
    | send hi => exact Laws.TableRow.send hi hwf
    | cmdReserved hi code => exact Laws.TableRow.cmdReserved hi code hwf
    | wrStatus d => exact Laws.TableRow.wrStatus d hwf
    | wrRoIndex d => exact Laws.TableRow.wrRoIndex d hwf
    | wrRoPeak d => exact Laws.TableRow.wrRoPeak d hwf
    | wrRoRms d => exact Laws.TableRow.wrRoRms d hwf
    | wrRoFreq d => exact Laws.TableRow.wrRoFreq d hwf
    | wrUnmappedLo sel d => exact Laws.TableRow.wrUnmappedLo sel d hwf
    | wrUnmappedHi sel d => exact Laws.TableRow.wrUnmappedHi sel d hwf
    | frameMeas | frameBad => cases he
  unfold Laws.TableRow.Matches at hm
  rw [he] at hm
  exact hm

/-- The priority value of the row that bears the instruction's mnemonic (`row_priority`). -/
def tablePriority : Instr → Nat
  | .busErrSizeB _ _ _ | .busErrSizeH _ _ _ | .busErrSizeR _ _ _ | .busErrAlign1 _ _ _ | .busErrAlign2 _ _ _ => 0
  | .cmdReserved _ _ => 2
  | _ => 1

theorem row_priority (i : Instr) : ∀ r ∈ busRows, r.mnemonic = i.mnemonic → r.priority = tablePriority i := by
  cases i <;> (simp only [Instr.mnemonic, tablePriority]; decide)

theorem tablePriority_le_one_or_reserved (i : Instr) : tablePriority i ≤ 1 ∨ ∃ hi code, i = .cmdReserved hi code := by
  cases i with
  | cmdReserved hi code => exact .inr ⟨hi, code, rfl⟩
  | _ => exact .inl (by simp only [tablePriority]; decide)

theorem tablePriority_of_error {t : BusWord} (h : busErrCause t ≠ none) : tablePriority (decodeBus t) = 0 := by
  rcases decodeBus_error_cases h with ⟨_, e⟩ | ⟨_, e⟩ | ⟨_, e⟩ | ⟨_, _, e⟩ | ⟨_, _, e⟩ <;> rw [e, tablePriority]

/-- A row of priority 0 matches only accesses with a BusError. -/
theorem busErrCause_of_matches {r : BusRow} (hr : r ∈ busRows) (hp : r.priority = 0) {t : BusWord} (hm : r.Matches t) :
    busErrCause t ≠ none := by
  intro hc
  obtain ⟨hz, ha⟩ := busErrCause_eq_none_iff.mp hc
  obtain ⟨-, msize, maddr, -⟩ := (row_matches_iff hr).mp hm
  have low : ∀ a : Offset, a.extractLsb' 0 2 = 0#2 → a &&& 1#6 ≠ 1#6 ∧ a &&& 2#6 ≠ 2#6 := by decide
  rcases busRows_priority_zero r hr hp with ⟨h3, hne⟩ | ⟨h1, e⟩ | ⟨h2, e⟩
  · rw [hz, h3] at msize; exact hne msize.symm
  · rw [h1, e] at maddr; exact (low _ ha).1 maddr
  · rw [h2, e] at maddr; exact (low _ ha).2 maddr

/-- A command with a reserved code matches no row of priority 1 (R103). -/
theorem reserved_matches_no_priority_one {r : BusRow} (hr : r ∈ busRows) (hp : r.priority = 1) {hi : BitVec 24} {code : Byte}
    (hc : reservedCode code = true) : ¬ r.Matches (wrWord 0x00#6 (cmdData hi code)) := by
  intro hm
  rw [row_matches_iff hr, wrWord, busW_busWord, busSize_busWord, busAddr_busWord, busData_busWord] at hm
  obtain ⟨mw, -, maddr, mdata⟩ := hm
  rcases busRows_priority_one r hr hp with ⟨hw, hf⟩ | hne | ⟨hd, hcode⟩
  · rw [hw, hf] at mw; cases mw
  · exact hne (by rw [← maddr, BitVec.zero_and])
  · rw [hd, cmd_low] at mdata
    rw [← mdata, show cmdCode (0#24 ++ code) = code from cmdCode_cmdData 0#24 code, hc] at hcode
    cases hcode

/-- R102: no row that matches a transaction word has a lower priority value than the row it decodes to. -/
theorem tablePriority_decodeBus_le {t : BusWord} {r : BusRow} (hr : r ∈ busRows) (hm : r.Matches t) :
    tablePriority (decodeBus t) ≤ r.priority := by
  by_cases h : busErrCause t = none
  · have h0 : r.priority ≠ 0 := fun hp => busErrCause_of_matches hr hp hm h
    rcases tablePriority_le_one_or_reserved (decodeBus t) with hle | ⟨hi, code, e⟩
    · omega
    · obtain ⟨hwf, henc⟩ := encode_decodeBus t
      rw [e] at hwf henc
      have hcanon : wrWord 0x00#6 (cmdData hi code) = canonicalBus t := Packet.bus.inj henc
      have h1 : r.priority ≠ 1 := fun hp => reserved_matches_no_priority_one hr hp hwf
        (by rw [hcanon]; exact (row_matches_canonicalBus_iff hr).mpr hm)
      rw [e, tablePriority]
      omega
  · rw [tablePriority_of_error h]
    exact Nat.zero_le _

/-- Settles O3: the row of the decoded instruction matches its encoding and so the word, and it has the lowest priority value; a frame's
row is decided by its first byte. -/
theorem decodeFollowsOpcodeTable : Obligations.DecodeFollowsOpcodeTable := by
  constructor
  · intro t
    obtain ⟨hwf, henc⟩ := encode_decodeBus t
    obtain ⟨r, hr, hname, hm⟩ := encode_matches_row hwf henc
    refine ⟨r, hr, hname, (row_matches_canonicalBus_iff hr).mp hm, fun r' hr' hm' => ?_⟩
    rw [row_priority _ r hr hname]
    exact tablePriority_decodeBus_le hr' hm'
  · intro w
    simp only [frame_first_byte, decodeFrame]
    split_ifs <;> rfl

/-! ## The bits that no access examines -/

/-- R318: an access with a BusError answers it. -/
theorem exec_error {t : BusWord} (h : busErrCause t ≠ none) (s : State) : exec (decodeBus t) s = .next (busError s) := by
  rcases decodeBus_error_cases h with ⟨_, e⟩ | ⟨_, e⟩ | ⟨_, e⟩ | ⟨_, _, e⟩ | ⟨_, _, e⟩ <;> rw [e] <;> rfl

/-- R104: a command is decided by its code. -/
theorem exec_decodeCmd_congr {d d' : Word} (h : cmdCode d = cmdCode d') (s : State) :
    exec (decodeCmd d) s = exec (decodeCmd d') s := by
  simp only [decodeCmd, ← h]
  split_ifs <;> rfl

/-- R105: the clear of the sticky bits looks at DATA[10:8] alone. -/
theorem statusW1C_congr {d d' : Word} (h : d.extractLsb' 8 3 = d'.extractLsb' 8 3) (m : MU) : statusW1C d m = statusW1C d' m := by
  have bit : ∀ k < 3, d.getLsbD (8 + k) = d'.getLsbD (8 + k) := by
    intro k hk
    simpa [hk] using congrArg (fun x => x.getLsbD k) h
  have h8 := bit 0 (by decide)
  have h9 := bit 1 (by decide)
  have h10 := bit 2 (by decide)
  simp only [statusW1C, h8, h9, h10]

/-- R316, R317: a write is decided by its offset, a command's code and a STATUS write's DATA[10:8]. -/
theorem exec_decodeWrite_congr {a : Offset} {d d' : Word} (hcmd : a = 0x00#6 → cmdCode d = cmdCode d')
    (hstatus : a = 0x04#6 → d.extractLsb' 8 3 = d'.extractLsb' 8 3) (s : State) :
    exec (decodeWrite a d) s = exec (decodeWrite a d') s := by
  unfold decodeWrite
  split_ifs with h0 h4
  · exact exec_decodeCmd_congr (hcmd h0) s
  · show Host.Outcome.next (respondWrite (s.onMu (statusW1C d))) = .next (respondWrite (s.onMu (statusW1C d')))
    rw [funext (statusW1C_congr (hstatus h4))]
  all_goals rfl

/-- Settles O5: the fields decide whether there is a BusError, a read is decided by its offset, and a write as said above. -/
theorem ignoredBusBitsDoNotMatter : Obligations.IgnoredBusBitsDoNotMatter := by
  intro t t' s ⟨hw, hz, ha, hcmd, hstatus⟩
  have hcause : busErrCause t = busErrCause t' := by rw [busErrCause, busErrCause, hz, ha]
  by_cases h : busErrCause t = none
  · rw [decodeBus_performed h, decodeBus_performed (hcause ▸ h), ← hw, ← ha]
    split_ifs with hread
    · rfl
    · have hwrite : busW t = true := by simpa using hread
      exact exec_decodeWrite_congr (hcmd hwrite) (hstatus hwrite) s
  · rw [exec_error h, exec_error (hcause ▸ h)]

/-! ## The sample words -/

/-- Settles O4: closed words, decoded by evaluation. -/
theorem sampleWordsDecode : Obligations.SampleWordsDecode := by
  unfold Obligations.SampleWordsDecode
  decide

/-! ## The STATUS write -/

/-- STATUS_W1C bit by bit: a sticky bit written as 1 is cleared, one written as 0 stays (R105, R315). -/
theorem statusW1C_eq (d : Word) (m : MU) :
    statusW1C d m = { m with
      cmdErr := if d.getLsbD 8 = true then false else m.cmdErr
      tickMissed := if d.getLsbD 9 = true then false else m.tickMissed
      sqOvf := if d.getLsbD 10 = true then false else m.sqOvf } := by
  have clear : ∀ b x : Bool, (b && !x) = if x = true then false else b := by decide
  simp only [statusW1C, clear]

/-- Settles O16: a STATUS write is STATUS_W1C and a write's response. -/
theorem statusWriteOneToClear : Obligations.StatusWriteOneToClear := by
  intro d s
  refine ⟨none, ?_⟩
  show Host.Outcome.next (respondWrite (s.onMu (statusW1C d))) = _
  rw [respondWrite, State.onMu, State.onMu, statusW1C_eq]

/-! ## The waiting host -/

/-- Positions (2) to (5) of an MU cycle leave the host's operations and the response of the access alone. -/
theorem finishMuCycle_host_busResp (i : MuIn) (m0 : MU) (s : State) :
    (finishMuCycle i m0 s).host = s.host ∧ (finishMuCycle i m0 s).mu.busResp = s.mu.busResp := by
  obtain ⟨v, a, ds, n, e⟩ := finishMuCycle_eq i m0 s
  obtain ⟨m2, m4, h2, h4, h5⟩ := finishMu_eq s.cfg m0 v s.mu
  have r2 : m2.busResp = s.mu.busResp := by
    rcases h2 with rfl | ⟨r, rfl⟩
    · rfl
    · exact adcDone_busResp _ _ _
  have r4 : m4.busResp = m2.busResp := by
    rcases h4 with ⟨_, rfl⟩ | ⟨_, rfl⟩ <;> simp
  have r5 : (finishMu s.cfg m0 v s.mu).1.busResp = m4.busResp := by
    rcases h5 with ⟨_, h5⟩ | ⟨_, h5⟩ <;> rw [h5]
    exact txStep_busResp _ _
  rw [e]
  exact ⟨rfl, r5.trans (r4.trans r2)⟩

/-- READVAL does not look at the one-cycle outputs that a new cycle ends. -/
theorem readVal_beginMuCycle (s : State) (a : Offset) : readVal (beginMuCycle s).mu a = readVal s.mu a := rfl

/-- R107: a wait leaves the list if the value read is the one waited for, and is presented again otherwise. -/
theorem retireHost_wait {a : Offset} {mask v x : Word} {err : Bool} {s : State}
    (h : s.mu.busResp = some { rdata := some x, err := err }) :
    retireHost (.wait a mask v) s = { s with host := if x &&& mask = v then s.host else .wait a mask v :: s.host } := by
  simp only [retireHost, waitMet, h, decide_eq_true_eq]
  split_ifs <;> rfl

/-- An MU cycle out of reset with a wait at an aligned offset: the read answers READVAL, the other positions of R33 keep that response,
and the wait is tested against it. -/
theorem muCycle_wait {i : MuIn} {s : State} {a : Offset} {mask v : Word} {hs : List HostOp} (hr : i.rst = false)
    (ha : a.extractLsb' 0 2 = 0#2) (hh : s.host = .wait a mask v :: hs) :
    ∃ t, muCycle i s = .next t ∧ t.mu.busResp = some { rdata := some (readVal s.mu a), err := false }
      ∧ t.host = if readVal s.mu a &&& mask = v then hs else s.host := by
  have hop : nextHostOp s = .wait a mask v := by rw [nextHostOp, hh, List.headD_cons]
  have htail : (popHost s).host = hs := by rw [popHost, hh, List.tail_cons]
  have hread : exec (decodeBus (rdWord a)) (beginMuCycle (popHost s)) = .next (readRegister a (beginMuCycle (popHost s))) :=
    (exec_aligned_read _ (rdWord a) (busW_busWord _ _ _ _) (busSize_busWord _ _ _ _)
      (by rw [rdWord, busAddr_busWord]; exact ha)).trans (by rw [rdWord, busAddr_busWord])
  obtain ⟨hhost, hresp⟩ := finishMuCycle_host_busResp i (beginMuCycle (popHost s)).mu (readRegister a (beginMuCycle (popHost s)))
  refine ⟨retireHost (.wait a mask v)
    (finishMuCycle i (beginMuCycle (popHost s)).mu (readRegister a (beginMuCycle (popHost s)))), ?_, ?_, ?_⟩
  · simp only [muCycle, hr, hop, muAccessCycle, opWord, hread, andThen_next, Bool.false_eq_true, if_false]
  · rw [retireHost_wait hresp]
    exact hresp
  · rw [retireHost_wait hresp]
    simp only [hhost, readRegister_host, beginMuCycle_host, htail, hh, readVal_beginMuCycle, popHost_mu]

/-- Settles O60: the turn is that one MU cycle. -/
theorem waitRepeatsUntilConditionHolds : Obligations.WaitRepeatsUntilConditionHolds := by
  intro s ts a mask v hs hl ha ht hh
  obtain ⟨t, hcycle, hresp, hhost⟩ := muCycle_wait (i := {}) (s := { s with turns := ts }) rfl ha hh
  refine ⟨t, ?_, hresp, hhost⟩
  rw [step_of_legal hl, nextTurn_of_turns ht, popTurn_of_turns ht]
  show andThen (muCycle {} _) (suPart none) = _
  rw [hcycle]
  rfl

end Sys2Proof.Machine
end

section
/-! The Sampler's own statements (40_sampler.md): the invariant of the whole machine (R149), START (R141), the timer and its ticks (R142
to R144), ADC_DONE (R146 to R148), and the order of the answer and the tick in one cycle (R33, R145, R336). -/

namespace Sys2Proof.Machine

/-! ## The invariant -/

/-- Every step keeps the MU's part of the invariant: reset restores it, an access and the rest of the cycle keep it. -/
theorem muInv_step {s t : State} (l : Bounds s.cfg) (hi : MuInv s.cfg s.mu) (h : step s = .next t) : MuInv s.cfg t.mu := by
  by_cases hr : muInReset s
  · rw [step_mu_in_reset h hr]
    exact muInv_of_eq (muInv_reset l) rfl
  rcases step_mu h hr with ⟨e, _⟩ | ⟨i, s1, v, _, _, hs, e⟩
  · rw [e]; exact hi
  · have hbegin : MuInv s.cfg (beginMuCycle (popHost (popTurn s))).mu := muInv_of_eq hi rfl
    have haccess : MuInv s.cfg s1.mu := by
      rcases hs with ⟨_, rfl⟩ | ⟨x, _, hx⟩
      · exact hbegin
      · exact muInv_exec (s := beginMuCycle (popHost (popTurn s))) l hbegin hx
    rw [e]
    exact muInv_finishMu l haccess

/-- Whatever the SU does in a turn keeps the receiver's part of the invariant. -/
theorem receiverInv_suPart {i : Option SuIn} {s t : State} (l : Bounds s.cfg) (hi : ReceiverInv s.cfg s.su)
    (h : suPart i s = .next t) : ReceiverInv s.cfg t.su := by
  cases i with
  | none => cases h; exact hi
  | some i =>
    rcases suCycle_cases h with ⟨n, _, rfl⟩ | ⟨_, rfl⟩ | ⟨_, _, rfl⟩ | ⟨e, es, _, _, rfl⟩ | ⟨e, _, rfl⟩ | ⟨w, _, rfl⟩
    · exact receiverInv_reset l
    · exact receiverInv_of_eq hi rfl
    · exact receiverInv_of_eq hi rfl
    · exact receiverInv_event l hi
    · exact receiverInv_event l hi
    · rw [takeFrame_su]; exact receiverInv_events l hi

/-- Every step keeps the receiver's part of the invariant: the MU's part of the turn leaves the SU alone. -/
theorem receiverInv_step {s t : State} (l : Bounds s.cfg) (hi : ReceiverInv s.cfg s.su) (h : step s = .next t) :
    ReceiverInv s.cfg t.su := by
  obtain ⟨_, s1, hmu, hsu⟩ := step_cases h
  obtain ⟨hcfg, hs1, _⟩ := muPart_frame hmu
  rw [popTurn_cfg] at hcfg
  rw [popTurn_su] at hs1
  rw [← hcfg] at l hi ⊢
  exact receiverInv_suPart l (hs1 ▸ hi) hsu

/-- Settles O45: the configuration stays, and the MU's and the SU's parts are kept one by one. -/
theorem stepKeepsInvariant : Obligations.StepKeepsInvariant := by
  intro s t hi h
  have l := legal_bounds hi.legal
  have hc : t.cfg = s.cfg := parametersNeverChange s t h
  obtain ⟨sampler, estimator, framer⟩ := muInv_step l ⟨hi.sampler, hi.estimator, hi.framer⟩ h
  have receiver := receiverInv_step l hi.receiver h
  rw [← hc] at sampler estimator framer receiver
  exact ⟨hc ▸ hi.legal, sampler, estimator, framer, receiver⟩

/-! ## START -/

theorem muStart_accepted {m : MU} (h : m.convEn = false ∧ m.procBusy = false) :
    muStart m = { m with idx := 0, ready := false, convEn := true, tickEn := true, tcnt := 0 } := if_pos h

theorem muStart_refused {m : MU} (h : ¬(m.convEn = false ∧ m.procBusy = false)) : muStart m = setCmdErr m := if_neg h

/-- START is its effect on the MU and a write's response. -/
theorem exec_start (hi : BitVec 24) (s : State) : exec (.start hi) s = .next (respondWrite (s.onMu muStart)) := rfl

/-- Settles O11: the acceptance test decides between the two effects. -/
theorem startAcceptedOrRefused : Obligations.StartAcceptedOrRefused := by
  intro hi s
  refine ⟨decodeBus_cmd hi 0x01#8, fun hacc => ⟨none, ?_⟩, fun href => ⟨none, ?_⟩⟩
  · rw [exec_start, State.onMu, muStart_accepted hacc]; rfl
  · rw [exec_start, State.onMu, muStart_refused href]; rfl

/-! ## The timer and its ticks -/

/-- R143: a TICK with no conversion pending starts one. -/
theorem tick_starts {m : MU} (hc : m.convEn = true) (hp : m.adcPending = false) :
    tick m = { m with adcStart := true, adcPending := true } := by
  rw [tick, if_pos hc, if_pos hp]

/-- R144: a TICK that finds a conversion pending is missed. -/
theorem tick_misses {m : MU} (hc : m.convEn = true) (hp : m.adcPending = true) : tick m = { m with tickMissed := true } := by
  rw [tick, if_pos hc, if_neg (by rw [hp]; decide), setTickMissed]

/-- Settles O29: `adc_pending` decides between the two. -/
theorem tickStartsOrMisses : Obligations.TickStartsOrMisses :=
  fun _ hc => ⟨tick_starts hc, tick_misses hc⟩

theorem timerCount_stopped {c : Config} {m : MU} (h : m.tickEn = false) : timerCount c m = m := by
  rw [timerCount, if_neg (by rw [h]; decide)]

theorem timerCount_counts {c : Config} {m : MU} (h : m.tickEn = true) (hn : m.tcnt ≠ c.timerPeriod - 1) :
    timerCount c m = { m with tcnt := m.tcnt + 1 } := by
  rw [timerCount, if_pos h, if_neg hn]

theorem timerCount_ticks {c : Config} {m : MU} (h : m.tickEn = true) (hn : m.tcnt = c.timerPeriod - 1) :
    timerCount c m = tick { m with tcnt := 0 } := by
  rw [timerCount, if_pos h, if_pos hn]

theorem timerRun_succ (c : Config) (n : Nat) (m : MU) : timerRun c (n + 1) m = timerCount c (timerRun c n m) :=
  Function.iterate_succ_apply' _ n m

/-- Before the period is over the timer only counts. -/
theorem timerRun_counts {c : Config} {m : MU} (h : m.tickEn = true) (h0 : m.tcnt = 0) (n : Nat) (hn : n < c.timerPeriod) :
    timerRun c n m = { m with tcnt := n } := by
  induction n with
  | zero => exact (by rw [← h0] : m = { m with tcnt := 0 })
  | succ n ih =>
    rw [timerRun_succ, ih (by omega)]
    exact timerCount_counts h (show n ≠ c.timerPeriod - 1 by omega)

/-- Settles O28: the calls up to the last of the period count, and the last finds `tcnt` at TIMER_PERIOD - 1. -/
theorem timerTicksEveryPeriod : Obligations.TimerTicksEveryPeriod := by
  intro c m hpos ht h0
  refine ⟨timerRun_counts ht h0, ?_⟩
  obtain ⟨p, hp⟩ : ∃ p, c.timerPeriod = p + 1 := ⟨c.timerPeriod - 1, by omega⟩
  rw [hp, timerRun_succ, timerRun_counts ht h0 p (by omega)]
  exact timerCount_ticks ht (show p = c.timerPeriod - 1 by omega)

/-! ## ADC_DONE -/

/-- R146: a reading that does not fill the block is stored. -/
theorem adcDone_stores {c : Config} {v : Reading} {m : MU} (hp : m.adcPending = true) (hi : m.idx + 1 < c.blockN) :
    adcDone c v m = { m with adcPending := false, blk := m.blk.set m.idx v, idx := m.idx + 1 } := by
  have hlt : m.idx < c.blockN := by omega
  simp only [adcDone, hp, hlt, hi.ne, if_true, if_false, storeSample]

/-- R147: the reading for index N-1 is stored and ends the acquisition. -/
theorem adcDone_fills {c : Config} {v : Reading} {m : MU} (hp : m.adcPending = true) (hi : m.idx + 1 = c.blockN) :
    adcDone c v m = { m with
      adcPending := false, blk := m.blk.set m.idx v, idx := c.blockN,
      convEn := false, tickEn := false, tcnt := 0, ready := true } := by
  have hlt : m.idx < c.blockN := by omega
  simp only [adcDone, hp, hlt, hi, if_true, storeSample, blockFull]

/-- With the block full nothing is stored. -/
theorem adcDone_drops {c : Config} {v : Reading} {m : MU} (hp : m.adcPending = true) (hi : c.blockN ≤ m.idx) :
    adcDone c v m = { m with adcPending := false } := by
  simp only [adcDone, hp, hi.not_gt, if_true, if_false]

/-- Settles O30: `adc_pending`, and then `idx` against N, decide between the four. -/
theorem adcDoneStoresOneSample : Obligations.AdcDoneStoresOneSample :=
  fun _ _ _ => ⟨adcDone_of_not_pending, adcDone_stores, adcDone_fills, adcDone_drops⟩

/-- After an ADC_DONE no conversion is pending. -/
theorem adcDone_adcPending (c : Config) (v : Reading) (m : MU) : (adcDone c v m).adcPending = false := by
  cases hp : m.adcPending with
  | false => rw [adcDone_of_not_pending hp, hp]
  | true => simp only [adcDone, hp, if_true]; split_ifs <;> rfl

/-! ## TIMER_COUNT by the state of the conversion -/

/-- While a conversion is pending TIMER_COUNT starts none. -/
theorem timerCount_of_pending {c : Config} {m : MU} (hc : m.convEn = true) (hp : m.adcPending = true) :
    (timerCount c m).adcPending = true ∧ (timerCount c m).adcStart = m.adcStart := by
  cases ht : m.tickEn with
  | false => rw [timerCount_stopped ht]; exact ⟨hp, rfl⟩
  | true =>
    by_cases hn : m.tcnt = c.timerPeriod - 1
    · rw [timerCount_ticks ht hn, tick_misses (m := { m with tcnt := 0 }) hc hp]; exact ⟨hp, rfl⟩
    · rw [timerCount_counts ht hn]; exact ⟨hp, rfl⟩

/-- With no conversion pending a running timer starts one exactly at the end of its period. -/
theorem timerCount_of_not_pending {c : Config} {m : MU} (ht : m.tickEn = true) (hc : m.convEn = true) (hp : m.adcPending = false)
    (hs : m.adcStart = false) :
    (timerCount c m).adcPending = decide (m.tcnt = c.timerPeriod - 1)
      ∧ (timerCount c m).adcStart = decide (m.tcnt = c.timerPeriod - 1) := by
  by_cases hn : m.tcnt = c.timerPeriod - 1
  · rw [timerCount_ticks ht hn, tick_starts (m := { m with tcnt := 0 }) hc hp, decide_eq_true hn]; exact ⟨rfl, rfl⟩
  · rw [timerCount_counts ht hn, decide_eq_false hn]; exact ⟨hp, hs⟩

/-- With no conversion pending TIMER_COUNT misses no tick. -/
theorem timerCount_tickMissed_of_not_pending {c : Config} {m : MU} (hp : m.adcPending = false) :
    (timerCount c m).tickMissed = m.tickMissed := by
  unfold timerCount tick
  split_ifs <;> rfl

/-! ## An answer and the TIMER_COUNT after it -/

/-- R146: while the block is not full the reading goes to `blk[idx]` and `idx` advances. -/
theorem adcDone_idx_blk {c : Config} {v : Reading} {m : MU} (hp : m.adcPending = true) (hi : m.idx + 1 ≤ c.blockN) :
    (adcDone c v m).idx = m.idx + 1 ∧ (adcDone c v m).blk = m.blk.set m.idx v := by
  rcases hi.lt_or_eq with hlt | heq
  · rw [adcDone_stores hp hlt]; exact ⟨rfl, rfl⟩
  · rw [adcDone_fills hp heq]; exact ⟨heq.symm, rfl⟩

/-- After an answer that does not fill the block, a running timer at the end of its period starts the next conversion. -/
theorem timerCount_adcDone_stores {c : Config} {v : Reading} {m : MU} (ht : m.tickEn = true) (hc : m.convEn = true)
    (hp : m.adcPending = true) (hs : m.adcStart = false) (hi : m.idx + 1 < c.blockN) :
    (timerCount c (adcDone c v m)).adcPending = decide (m.tcnt = c.timerPeriod - 1)
      ∧ (timerCount c (adcDone c v m)).adcStart = decide (m.tcnt = c.timerPeriod - 1)
      ∧ (timerCount c (adcDone c v m)).convEn = true := by
  rw [adcDone_stores hp hi]
  obtain ⟨hpend, hstart⟩ := timerCount_of_not_pending (c := c)
    (m := { m with adcPending := false, blk := m.blk.set m.idx v, idx := m.idx + 1 }) ht hc rfl hs
  exact ⟨hpend, hstart, (timerCount_convEn _ _).trans hc⟩

/-- R147: an answer that fills the block stops the timer before TIMER_COUNT sees it. -/
theorem timerCount_adcDone_fills {c : Config} {v : Reading} {m : MU} (hp : m.adcPending = true) (hi : m.idx + 1 = c.blockN) :
    timerCount c (adcDone c v m) = { m with
      adcPending := false, blk := m.blk.set m.idx v, idx := c.blockN,
      convEn := false, tickEn := false, tcnt := 0, ready := true } := by
  rw [adcDone_fills hp hi, timerCount_stopped rfl]

/-! ## The Sampler and the converter in a step -/

/-- Two states agree on the converter, on its coming answers and on the fields of the MU that the Sampler sets. -/
structure SameSampler (s t : State) : Prop where
  adc : t.adc = s.adc
  adcDraws : t.adcDraws = s.adcDraws
  drawCnt : t.drawCnt = s.drawCnt
  adcStart : t.mu.adcStart = s.mu.adcStart
  adcPending : t.mu.adcPending = s.mu.adcPending
  idx : t.mu.idx = s.mu.idx
  blk : t.mu.blk = s.mu.blk
  ready : t.mu.ready = s.mu.ready
  convEn : t.mu.convEn = s.mu.convEn
  tickEn : t.mu.tickEn = s.mu.tickEn
  tcnt : t.mu.tcnt = s.mu.tcnt
  tickMissed : t.mu.tickMissed = s.mu.tickMissed

/-- What position (1) of R33 leaves as it finds it: the converter, a pending conversion and the block; the timer and the index of a
running acquisition. The `adc_start` pulse is over, and TICK_MISSED is not set. -/
structure HandedOn (s s1 : State) : Prop where
  cfg : s1.cfg = s.cfg
  adc : s1.adc = s.adc
  adcDraws : s1.adcDraws = s.adcDraws
  drawCnt : s1.drawCnt = s.drawCnt
  adcStart : s1.mu.adcStart = false
  adcPending : s1.mu.adcPending = s.mu.adcPending
  blk : s1.mu.blk = s.mu.blk
  running : s.mu.convEn = true → s1.mu.convEn = true ∧ s1.mu.tickEn = s.mu.tickEn ∧ s1.mu.tcnt = s.mu.tcnt ∧ s1.mu.idx = s.mu.idx
  tickMissed : s1.mu.tickMissed = true → s.mu.tickMissed = true

theorem handedOn_position1 {s s1 : State}
    (h : (opWord (nextHostOp s) = none ∧ s1 = beginMuCycle (popHost (popTurn s)))
      ∨ ∃ x, opWord (nextHostOp s) = some x ∧ exec (decodeBus x) (beginMuCycle (popHost (popTurn s))) = .next s1) :
    HandedOn s s1 := by
  rcases h with ⟨_, rfl⟩ | ⟨x, _, hx⟩
  · exact ⟨rfl, rfl, rfl, rfl, rfl, rfl, rfl, fun hc => ⟨hc, rfl, rfl, rfl⟩, id⟩
  · obtain ⟨hadc, hdraws, hcnt, hstart, hpend, hblk, hrun, hmissed⟩ := access_keeps_converter hx
    exact ⟨(exec_decodeBus_frame hx).1, hadc, hdraws, hcnt, hstart, hpend, hblk, hrun, hmissed⟩

/-- The converter and the Sampler after a step with an MU cycle out of reset: positions (2) and (3) of R33 at what position (1) hands on. -/
theorem step_sampler {s t : State} {i : MuIn} (h : step s = .next t) (hm : (nextTurn s).mu = some i) (hr : i.rst = false) :
    ∃ s1, HandedOn s s1 ∧ SameSampler (timerPhase (adcPhase i.stray s1)) t := by
  obtain ⟨s1, t1, hs, rfl, hsu⟩ := step_in_muCycle h hm hr
  refine ⟨s1, handedOn_position1 hs, ?_⟩
  obtain ⟨hst, e⟩ := retireHost_eq (nextHostOp s) (finishMuCycle i (beginMuCycle s).mu s1)
  obtain ⟨-, hmu, hadc, -, -, hdraws, hcnt⟩ := suPart_frame hsu
  rw [e] at hmu hadc hdraws hcnt
  obtain ⟨kadc, kdraws, kcnt, kfields⟩ := finishMuCycle_keeps i (beginMuCycle s).mu s1
  obtain ⟨kstart, kpend, kidx, kblk, kready, kconv, ktick, ktcnt, kmissed⟩ := kfields
  constructor
  case adc => exact hadc.trans kadc
  case adcDraws => exact hdraws.trans kdraws
  case drawCnt => exact hcnt.trans kcnt
  all_goals (rw [hmu]; assumption)

/-! ## Positions (2) and (3) -/

/-- The converter counts, or its request ends (R145). -/
theorem adcPhase_converter (stray : Option Reading) (s : State) :
    (adcPhase stray s).adc = (converterCycle s.adc).2 ∧ (adcPhase stray s).adcDraws = s.adcDraws
      ∧ (adcPhase stray s).drawCnt = s.drawCnt := by
  unfold adcPhase
  dsimp only
  split <;> exact ⟨rfl, rfl, rfl⟩

/-- An answer that is due is an ADC_DONE with its reading, whatever stray pulse comes with it. -/
theorem adcPhase_mu_of_due {stray : Option Reading} {s : State} {j : AdcJob} (ha : s.adc = some j) (hj : j.left ≤ 1) :
    (adcPhase stray s).mu = adcDone s.cfg (adcPort s.cfg j.reading) s.mu := by
  have hd : converterCycle s.adc = (some j.reading, none) := by rw [ha]; exact if_pos hj
  unfold adcPhase
  rw [hd]
  rfl

/-- An `adc_start` takes the oldest listed answer into the converter (R145). -/
theorem startConverter_listed {s : State} {a : Option AdcAnswer} {ds : List (Option AdcAnswer)} (h : s.adcDraws = a :: ds) :
    startConverter s = { s with
      adc := a.map (fun x => { left := x.latency, reading := x.reading }), adcDraws := ds } := by
  simp only [startConverter, drawAnswer, h]

/-- With no answer listed it takes a free value (log 3). -/
theorem startConverter_free {s : State} (h : s.adcDraws = []) :
    startConverter s = { s with
      adc := (Config.freeAdcAnswer s.drawCnt).map (fun x => { left := x.latency, reading := x.reading }),
      drawCnt := s.drawCnt + 1 } := by
  simp only [startConverter, drawAnswer, h]

/-- Positions (2) and (3) without an `adc_start`: the converter only counts. -/
theorem timerPhase_adcPhase_not_started {stray : Option Reading} {s : State}
    (h : (timerPhase (adcPhase stray s)).mu.adcStart = false) :
    (timerPhase (adcPhase stray s)).adc = (converterCycle s.adc).2 ∧ (timerPhase (adcPhase stray s)).adcDraws = s.adcDraws
      ∧ (timerPhase (adcPhase stray s)).drawCnt = s.drawCnt := by
  rw [timerPhase_mu] at h
  rw [timerPhase_not_started _ h]
  exact adcPhase_converter stray s

/-- Positions (2) and (3) with an `adc_start`: the converter takes its next answer. -/
theorem timerPhase_adcPhase_started {stray : Option Reading} {s : State}
    (h : (timerPhase (adcPhase stray s)).mu.adcStart = true) :
    ∃ s2, timerPhase (adcPhase stray s) = startConverter s2 ∧ s2.adcDraws = s.adcDraws ∧ s2.drawCnt = s.drawCnt := by
  rw [timerPhase_mu] at h
  exact ⟨_, timerPhase_started _ h, (adcPhase_converter stray s).2⟩

/-- Positions (2) and (3) on the MU. -/
theorem timerPhase_adcPhase_mu (stray : Option Reading) (s : State) :
    (timerPhase (adcPhase stray s)).mu = timerCount s.cfg (adcPhase stray s).mu := by
  rw [timerPhase_mu, adcPhase_cfg]

/-- What the converter goes on with (R145). -/
theorem converterCycle_some_snd (j : AdcJob) :
    (converterCycle (some j)).2 = if j.left ≤ 1 then none else some { left := j.left - 1, reading := j.reading } := by
  simp only [converterCycle]
  split_ifs <;> rfl

/-! ## The answer before the tick -/

/-- While an acquisition waits for a conversion, a cycle without an answer stores nothing, and a tick in it is missed. -/
theorem step_without_answer {s s1 t : State} {i : MuIn} (k : HandedOn s s1) (q : SameSampler (timerPhase (adcPhase i.stray s1)) t)
    (hc : s.mu.convEn = true) (ht : s.mu.tickEn = true) (hp : s.mu.adcPending = true) (hs : i.stray = none)
    (ha : ∀ j, s.adc = some j → 2 ≤ j.left) :
    t.mu.adcPending = true ∧ t.mu.idx = s.mu.idx ∧ t.mu.blk = s.mu.blk ∧ t.mu.adcStart = false
      ∧ (s.mu.tcnt = s.cfg.timerPeriod - 1 → t.mu.tickMissed = true) := by
  obtain ⟨hc1, ht1, hn1, hi1⟩ := k.running hc
  have hp1 : s1.mu.adcPending = true := k.adcPending.trans hp
  have hmu : (timerPhase (adcPhase i.stray s1)).mu = timerCount s.cfg s1.mu := by
    rw [timerPhase_adcPhase_mu, k.cfg, hs, adcPhase_mu_of_not_due s1 (k.adc ▸ ha)]
  obtain ⟨hpend, hstart⟩ := timerCount_of_pending (c := s.cfg) hc1 hp1
  rw [q.adcPending, q.idx, q.blk, q.adcStart, q.tickMissed, hmu]
  refine ⟨hpend, (timerCount_idx _ _).trans hi1, (timerCount_blk _ _).trans k.blk, hstart.trans k.adcStart, fun hn => ?_⟩
  exact timerCount_missed (ht1.trans ht) hc1 (hn1.trans hn) hp1

/-- While an acquisition waits for a conversion, an answer that is due is stored before the tick of the same cycle is taken. -/
theorem step_with_answer {s s1 t : State} {i : MuIn} {j : AdcJob} (k : HandedOn s s1)
    (q : SameSampler (timerPhase (adcPhase i.stray s1)) t)
    (hc : s.mu.convEn = true) (ht : s.mu.tickEn = true) (hp : s.mu.adcPending = true) (ha : s.adc = some j) (hj : j.left ≤ 1) :
    (s.mu.idx + 1 ≤ s.cfg.blockN →
      t.mu.idx = s.mu.idx + 1 ∧ t.mu.blk = s.mu.blk.set s.mu.idx (adcPort s.cfg j.reading)
        ∧ (t.mu.tickMissed = true → s.mu.tickMissed = true))
    ∧ (s.mu.idx + 1 < s.cfg.blockN →
      t.mu.adcPending = decide (s.mu.tcnt = s.cfg.timerPeriod - 1)
        ∧ t.mu.adcStart = decide (s.mu.tcnt = s.cfg.timerPeriod - 1) ∧ t.mu.convEn = true)
    ∧ (s.mu.idx + 1 = s.cfg.blockN →
      t.mu.adcPending = false ∧ t.mu.adcStart = false ∧ t.mu.ready = true ∧ t.mu.convEn = false ∧ t.mu.tickEn = false
        ∧ t.mu.tcnt = 0 ∧ t.adc = none) := by
  obtain ⟨hc1, ht1, hn1, hi1⟩ := k.running hc
  have hp1 : s1.mu.adcPending = true := k.adcPending.trans hp
  have hmu : (timerPhase (adcPhase i.stray s1)).mu = timerCount s.cfg (adcDone s.cfg (adcPort s.cfg j.reading) s1.mu) := by
    rw [timerPhase_adcPhase_mu, adcPhase_mu_of_due (k.adc.trans ha) hj, k.cfg]
  refine ⟨fun hi => ?_, fun hi => ?_, fun hi => ?_⟩
  · obtain ⟨hidx, hblk⟩ := adcDone_idx_blk (v := adcPort s.cfg j.reading) hp1 (hi1 ▸ hi)
    rw [q.idx, q.blk, q.tickMissed, hmu, timerCount_idx, timerCount_blk,
      timerCount_tickMissed_of_not_pending (adcDone_adcPending _ _ _), adcDone_tickMissed, hidx, hblk, hi1, k.blk]
    exact ⟨rfl, rfl, k.tickMissed⟩
  · rw [q.adcPending, q.adcStart, q.convEn, hmu, ← hn1]
    exact timerCount_adcDone_stores (ht1.trans ht) hc1 hp1 k.adcStart (hi1 ▸ hi)
  · rw [timerCount_adcDone_fills hp1 (hi1 ▸ hi)] at hmu
    have hstart : (timerPhase (adcPhase i.stray s1)).mu.adcStart = false := by rw [hmu]; exact k.adcStart
    have hadc := (timerPhase_adcPhase_not_started hstart).1
    rw [k.adc, ha, converterCycle_some_snd, if_pos hj] at hadc
    rw [q.adcPending, q.adcStart, q.ready, q.convEn, q.tickEn, q.tcnt, q.adc, hstart, hadc, hmu]
    exact ⟨rfl, rfl, rfl, rfl, rfl, rfl, rfl⟩

/-- Settles O31: the converter by whether the cycle pulses `adc_start`, the Sampler by whether an answer is due in position (2) of R33,
before the tick of position (3). -/
theorem answerBeforeTickInOneCycle : Obligations.AnswerBeforeTickInOneCycle := by
  intro s t i h hm hr
  obtain ⟨s1, k, q⟩ := step_sampler h hm hr
  refine ⟨fun hstart => ?_, fun hstart => ?_, fun hc ht hp =>
    ⟨step_without_answer k q hc ht hp, fun j => step_with_answer k q hc ht hp⟩⟩
  · obtain ⟨hadc, hdraws, hcnt⟩ := timerPhase_adcPhase_not_started (q.adcStart.symm.trans hstart)
    refine ⟨?_, q.adcDraws.trans (hdraws.trans k.adcDraws), q.drawCnt.trans (hcnt.trans k.drawCnt)⟩
    rw [q.adc, hadc, k.adc]
    cases s.adc with
    | none => rfl
    | some j => exact converterCycle_some_snd j
  · obtain ⟨s2, hP, hdraws, hcnt⟩ := timerPhase_adcPhase_started (q.adcStart.symm.trans hstart)
    have hcnt : s2.drawCnt = s.drawCnt := hcnt.trans k.drawCnt
    rw [q.adc, q.adcDraws, q.drawCnt, hP]
    refine ⟨fun a ds hl => ?_, fun hl => ?_⟩
    · have hl2 : s2.adcDraws = a :: ds := hdraws.trans (k.adcDraws.trans hl)
      rw [startConverter_listed hl2]
      exact ⟨rfl, rfl, hcnt⟩
    · have hl2 : s2.adcDraws = [] := hdraws.trans (k.adcDraws.trans hl)
      rw [startConverter_free hl2, hcnt]
      exact ⟨rfl, hl2, rfl⟩

end Sys2Proof.Machine
end

section
/-! The FIR engine (41_fir.md): the accumulator's bound (R173), and the folded sum over the circular buffer as the direct convolution of
the samples before (R175); and what changes at PROC_DONE alone (R49, R176, R361). -/

namespace Sys2Proof.Machine

/-! ## The accumulator's range -/

/-- A coefficient is in Q15 range, an absent one among them (R7; log 16). -/
theorem coeffAt_range {c : Config} (l : Bounds c) (i : Nat) : inS16 (coeffAt c i) := by
  unfold coeffAt
  rcases lt_or_ge i c.coeff.length with hi | hi
  · rw [List.getD_eq_getElem _ _ hi]; exact l.coeffRange _ (List.getElem_mem hi)
  · rw [List.getD_eq_default _ _ hi]; decide

/-- A tap is a signed 16-bit integer. -/
theorem tapAt_range (tap : List Half) (k : Nat) : inS16 (tapAt tap k) :=
  ⟨BitVec.le_toInt _, Int.le_of_lt_add_one BitVec.toInt_lt⟩

/-- A term of the folded sum is a 16-bit coefficient times the sum of two 16-bit taps (R173). -/
theorem firTerm_abs_le {c : Config} (l : Bounds c) (tap : List Half) (j i : Nat) : |firTerm c tap j i| ≤ 2 ^ 31 := by
  have hc : |coeffAt c i| ≤ 2 ^ 15 := by
    obtain ⟨a1, a2⟩ := coeffAt_range l i
    exact abs_le.mpr (by omega)
  have ht : |tapAt tap ((j + i) % c.firK) + tapAt tap ((j + c.firK - 1 - i) % c.firK)| ≤ 2 ^ 16 := by
    obtain ⟨a1, a2⟩ := tapAt_range tap ((j + i) % c.firK)
    obtain ⟨b1, b2⟩ := tapAt_range tap ((j + c.firK - 1 - i) % c.firK)
    exact abs_le.mpr (by omega)
  calc |firTerm c tap j i| = |coeffAt c i| * |_| := abs_mul _ _
    _ ≤ 2 ^ 15 * 2 ^ 16 := mul_le_mul hc ht (abs_nonneg _) (by decide)
    _ = 2 ^ 31 := by decide

/-- The K/2 terms of the accumulator. -/
theorem firAcc_abs_le {c : Config} (l : Bounds c) (tap : List Half) (j : Nat) :
    |firAcc c tap j| ≤ (c.firK / 2 : Nat) * 2 ^ 31 := by
  unfold firAcc
  induction c.firK / 2 with
  | zero => simp
  | succ n ih =>
    rw [List.range_succ, List.map_append, List.sum_append, List.map_singleton, List.sum_singleton, Nat.cast_succ, add_one_mul]
    exact (abs_add_le _ _).trans (add_le_add ih (firTerm_abs_le l tap j n))

/-- Settles O33: R7 leaves room in ACC_W for K/2 terms of 32 bits each. -/
theorem accumulatorNeverOverflows : Obligations.AccumulatorNeverOverflows := by
  intro c tap j h
  have l := legal_bounds h
  have hw := l.accW
  have room : ((c.firK / 2 : Nat) : Int) ≤ 2 ^ (c.accW - 33) := by exact_mod_cast l.accRoom
  have bound : |firAcc c tap j| < 2 ^ (c.accW - 1) := calc
    |firAcc c tap j| ≤ (c.firK / 2 : Nat) * 2 ^ 31 := firAcc_abs_le l tap j
    _ ≤ 2 ^ (c.accW - 33) * 2 ^ 31 := mul_le_mul_of_nonneg_right room (by decide)
    _ = 2 ^ (c.accW - 2) := by rw [← pow_add]; congr 1; omega
    _ < 2 ^ (c.accW - 1) := pow_lt_pow_right₀ (by decide) (by omega)
  obtain ⟨low, high⟩ := abs_lt.mp bound
  exact ⟨low.le, high⟩

/-! ## The folded sum -/

/-- The unfolded sum over the samples `h`, the newest first, with 0 for those before the first one; then the shift and the
saturation (R174, R175). -/
def convolve (c : Config) (h : List Int) : Int :=
  satS16 (asr ((List.range c.firK).map (fun d => coeffAt c d * h.getD d 0)).sum 15)

/-- A sum of 2n terms, folded in the middle. -/
theorem sum_range_folded (g : Nat → Int) (n : Nat) :
    ((List.range n).map (fun i => g (2 * n - 1 - i) + g i)).sum = ((List.range (2 * n)).map g).sum := by
  have list (f : Nat → Int) (k : Nat) : ((List.range k).map f).sum = ∑ i ∈ Finset.range k, f i := rfl
  rw [list, list, two_mul, Finset.sum_range_add, Finset.sum_add_distrib, add_comm, ← Finset.sum_range_reflect (fun i => g (n + i))]
  congr 1
  refine Finset.sum_congr rfl fun i hi => congrArg g ?_
  have := Finset.mem_range.mp hi
  omega

/-- The coefficients are symmetric (R170). -/
theorem coeffAt_mirror {c : Config} (l : Bounds c) {i : Nat} (hi : i < c.firK) : coeffAt c (c.firK - 1 - i) = coeffAt c i := by
  have hlen := l.coeffLength
  rw [coeffAt, coeffAt, ← hlen, ← List.getD_reverse i (by omega), l.coeffSym]

/-! ## The circular buffer -/

/-- The tap buffer holds the last K samples of `h`, which lists them newest first: the newest one lies before the rotating index (R172). -/
structure Remembers (c : Config) (f : Fir) (h : List Int) : Prop where
  tapLength : f.tap.length = c.firK
  tapIdxRange : f.tapIdx < c.firK
  back : ∀ d < c.firK, tapAt f.tap ((f.tapIdx + c.firK - 1 - d) % c.firK) = h.getD d 0

/-- After reset the buffer holds no sample yet (R55). -/
theorem remembers_reset {c : Config} (l : Bounds c) : Remembers c { tap := List.replicate c.firK 0#16, tapIdx := 0 } [] := by
  have := l.firLow
  refine ⟨List.length_replicate, by show 0 < c.firK; omega, fun d _ => ?_⟩
  rw [tapAt, List.getD_replicate _ (Nat.mod_lt _ (by omega))]
  rfl

theorem tapAt_set_same {tap : List Half} {k : Nat} {x : Int} (hk : k < tap.length) (hx : inS16 x) :
    tapAt (tap.set k (BitVec.ofInt 16 x)) k = x := by
  rw [tapAt, List.getD_eq_getElem _ _ (by rwa [List.length_set]), List.getElem_set_self, toInt_ofInt_of_range hx]

theorem tapAt_set_other {tap : List Half} {k m : Nat} {v : Half} (hkm : k ≠ m) : tapAt (tap.set k v) m = tapAt tap m := by
  rw [tapAt, tapAt, List.getD_eq_getElem?_getD, List.getD_eq_getElem?_getD, List.getElem?_set_ne hkm]

/-- Seen from the advanced index, `d` slots back is `d - 1` slots back from the old one. -/
theorem slot_back_succ (j k d : Nat) (hd : d < k) : ((j + 1) % k + k - 1 - d) % k = (j + k - d) % k := by
  have e : (j + 1) % k + k - 1 - d + k * ((j + 1) / k) = j + k - d := by have := Nat.mod_add_div (j + 1) k; omega
  rw [← e, Nat.add_mul_mod_self_left]

/-- Less than a whole turn back from the rotating index lies another slot. -/
theorem slot_back_ne {j k d : Nat} (hj : j < k) (hd : d + 1 < k) : j ≠ (j + k - (d + 1)) % k := by
  rcases lt_or_ge j (d + 1) with hlt | hge
  · rw [Nat.mod_eq_of_lt (by omega)]; omega
  · rw [Nat.mod_eq_sub_mod (by omega), Nat.mod_eq_of_lt (by omega)]; omega

/-- FIR_STEP's insertion makes its sample the newest and moves the others one back (R172). -/
theorem remembers_firInsert {c : Config} {f : Fir} {h : List Int} {x : Int} (r : Remembers c f h) (hx : inS16 x) :
    Remembers c (firInsert c x f) (x :: h) := by
  obtain ⟨hlen, hidx, hback⟩ := r
  refine ⟨(List.length_set ..).trans hlen, Nat.mod_lt _ (by omega), fun d hd => ?_⟩
  simp only [firInsert]
  rw [slot_back_succ _ _ _ hd]
  cases d with
  | zero =>
    rw [Nat.sub_zero, Nat.add_mod_right, Nat.mod_eq_of_lt hidx, tapAt_set_same (by omega) hx]
    rfl
  | succ d =>
    have hslot : f.tapIdx + c.firK - (d + 1) = f.tapIdx + c.firK - 1 - d := by omega
    rw [tapAt_set_other (slot_back_ne hidx hd), hslot, hback d (by omega), List.getD_cons_succ]

/-- On a buffer that holds the samples `h` the folded sum is the unfolded one: each pair of taps shares a coefficient. -/
theorem firOut_eq_convolve {c : Config} {f : Fir} {h : List Int} (l : Bounds c) (r : Remembers c f h) :
    firOut c f = convolve c h := by
  have heven : 2 * (c.firK / 2) = c.firK := Nat.mul_div_cancel' (Nat.dvd_of_mod_eq_zero l.firEven)
  have hacc : firAcc c f.tap f.tapIdx = ((List.range c.firK).map (fun d => coeffAt c d * h.getD d 0)).sum := by
    rw [firAcc, ← heven, ← sum_range_folded, heven]
    refine congrArg List.sum (List.map_congr_left fun i hi => ?_)
    have hi : i < c.firK / 2 := List.mem_range.mp hi
    have hnew := r.back i (by omega)
    have hold := r.back (c.firK - 1 - i) (by omega)
    rw [show f.tapIdx + c.firK - 1 - (c.firK - 1 - i) = f.tapIdx + i by omega] at hold
    rw [firTerm, hold, hnew, coeffAt_mirror l (by omega), mul_add]
  rw [firOut, hacc, convolve]

/-! ## The run -/

/-- Each output of a run is the convolution of the samples up to it, on top of those that the buffer held before. -/
theorem firRun_eq_convolve {c : Config} (l : Bounds c) (xs : List Int) {f : Fir} {h : List Int} (r : Remembers c f h)
    (hxs : ∀ x ∈ xs, inS16 x) :
    (firRun c xs f).2 = (List.range xs.length).map (fun n => convolve c ((xs.take (n + 1)).reverse ++ h)) := by
  induction xs generalizing f h with
  | nil => rfl
  | cons x xs ih =>
    obtain ⟨hx, hrest⟩ := List.forall_mem_cons.mp hxs
    have hstep := remembers_firInsert r hx
    simp only [firRun, firStep, ih hstep hrest, firOut_eq_convolve l hstep, List.length_cons, List.range_succ_eq_map, List.map_cons,
      List.map_map]
    simp [Function.comp_def]

/-- The samples up to x[n], newest first, are those that the direct form looks back at. -/
theorem sampleBack_eq (xs : List Int) {n : Nat} (hn : n < xs.length) (d : Nat) :
    sampleBack xs n d = (xs.take (n + 1)).reverse.getD d 0 := by
  have hlen : (xs.take (n + 1)).length = n + 1 := List.length_take_of_le hn
  unfold sampleBack
  split_ifs with hd
  · have hd' : d < (xs.take (n + 1)).length := by omega
    rw [List.getD_reverse d hd', hlen, Nat.add_sub_cancel, List.getD_eq_getElem?_getD, List.getD_eq_getElem?_getD,
      List.getElem?_take_of_lt (by omega)]
  · rw [List.getD_eq_default _ _ (by rw [List.length_reverse, hlen]; omega)]

/-- Settles O32: after reset the buffer holds no samples, so each output is the convolution of the samples up to it. -/
theorem foldedFirEqualsDirectConvolution : Obligations.FoldedFirEqualsDirectConvolution := by
  intro c xs hl hxs
  have l := legal_bounds hl
  rw [firRun_eq_convolve l xs (remembers_reset l) hxs]
  refine List.map_congr_left fun n hn => ?_
  simp only [convolve, directFir, List.append_nil, sampleBack_eq xs (List.mem_range.mp hn)]

/-! ## What PROC_DONE alone changes -/

/-- The fields that only PROC_DONE writes: the filter, the smoothing state and the results (R49, R176, R361). -/
def filterAndResults (m : MU) : Fir × Smooth × Half × Half × Half × Bool :=
  (firOf m, smoothOf m, m.resPeak, m.resRms, m.resFreq, m.resValid)

theorem filterAndResults_adcDone (c : Config) (v : Reading) (m : MU) :
    filterAndResults (adcDone c v m) = filterAndResults m := by simp [filterAndResults, firOf, smoothOf]

theorem filterAndResults_timerCount (c : Config) (m : MU) :
    filterAndResults (timerCount c m) = filterAndResults m := by simp [filterAndResults, firOf, smoothOf]

theorem filterAndResults_txStep (c : Config) (m : MU) :
    filterAndResults (txStep c m).1 = filterAndResults m := by simp [filterAndResults, firOf, smoothOf]

/-- Before its last count the processing engine only counts (R201). -/
theorem filterAndResults_procCount {c : Config} {m : MU} (h : 2 ≤ m.procCnt) :
    filterAndResults (procCount c m) = filterAndResults m := by
  have hn : ¬ m.procCnt - 1 = 0 := by omega
  simp only [procCount, hn, if_false]
  split_ifs <;> rfl

/-- A busy processing engine refuses PROCESS, so its count stays (R200). -/
theorem muProcess_procCnt {c : Config} {m : MU} (h : m.procBusy = true) : (muProcess c m).procCnt = m.procCnt := by
  simp [muProcess, h, setCmdErr]

/-- A bus access leaves them alone, and a running count too. -/
theorem access_filterAndResults {x : BusWord} {s s1 : State} (h : exec (decodeBus x) s = .next s1) :
    filterAndResults s1.mu = filterAndResults s.mu ∧ (s.mu.procBusy = true → s1.mu.procCnt = s.mu.procCnt) := by
  rcases exec_decodeBus_cases x s with e | ⟨a, e⟩ | e | ⟨d, _, e⟩ | ⟨hi, _, e⟩ | ⟨hi, _, e⟩ | ⟨hi, _, e⟩ | ⟨hi, c, _, e⟩
  all_goals
    rw [e] at h
    cases h
    exact ⟨by simp [filterAndResults, firOf, smoothOf], fun hb => by simp [muProcess_procCnt hb]⟩

/-- So does position (1) of R33, with or without an access. -/
theorem position1_filterAndResults {s s1 : State}
    (h : (opWord (nextHostOp s) = none ∧ s1 = beginMuCycle (popHost (popTurn s)))
      ∨ ∃ x, opWord (nextHostOp s) = some x ∧ exec (decodeBus x) (beginMuCycle (popHost (popTurn s))) = .next s1) :
    filterAndResults s1.mu = filterAndResults s.mu ∧ (s.mu.procBusy = true → s1.mu.procCnt = s.mu.procCnt) := by
  rcases h with ⟨_, rfl⟩ | ⟨x, _, hx⟩
  · exact ⟨rfl, fun _ => rfl⟩
  · exact access_filterAndResults (s := beginMuCycle (popHost (popTurn s))) hx

/-- The rest of an MU cycle leaves them alone unless the processing engine is at its last count. -/
theorem filterAndResults_finishMu {c : Config} {m0 m : MU} (v : Option Reading) (h : m0.procBusy = true → 2 ≤ m.procCnt) :
    filterAndResults (finishMu c m0 v m).1 = filterAndResults m := by
  obtain ⟨m2, m4, h2, h4, h5⟩ := finishMu_eq c m0 v m
  have e2 : filterAndResults m2 = filterAndResults m ∧ m2.procCnt = m.procCnt := by
    rcases h2 with rfl | ⟨r, rfl⟩
    · exact ⟨rfl, rfl⟩
    · exact ⟨filterAndResults_adcDone _ _ _, adcDone_procCnt _ _ _⟩
  have e4 : filterAndResults m4 = filterAndResults m2 := by
    rcases h4 with ⟨_, rfl⟩ | ⟨hb, rfl⟩
    · exact filterAndResults_timerCount c m2
    · have hcnt : 2 ≤ (timerCount c m2).procCnt := by rw [timerCount_procCnt, e2.2]; exact h hb
      exact (filterAndResults_procCount hcnt).trans (filterAndResults_timerCount c m2)
  rcases h5 with ⟨_, e⟩ | ⟨_, e⟩
  · rw [e, e4, e2.1]
  · rw [e, filterAndResults_txStep, e4, e2.1]

/-- Settles O54: neither the access nor the rest of the cycle writes them, and the access does not bring a running count to its end. -/
theorem filterAndResultsChangeOnlyAtProcDone : Obligations.FilterAndResultsChangeOnlyAtProcDone := by
  intro s t h hr hcount
  have same : filterAndResults t.mu = filterAndResults s.mu := by
    rcases step_mu h hr with ⟨e, _⟩ | ⟨i, s1, v, _, _, haccess, e⟩
    · rw [e]
    · obtain ⟨hkeep, hcnt⟩ := position1_filterAndResults haccess
      have hlate : (beginMuCycle s).mu.procBusy = true → 2 ≤ s1.mu.procCnt := by
        intro hb
        have hb : s.mu.procBusy = true := hb
        have : ¬ s.mu.procCnt ≤ 1 := fun hc => hcount ⟨hb, hc⟩
        rw [hcnt hb]
        omega
      rw [e, filterAndResults_finishMu v hlate, hkeep]
  simpa only [filterAndResults, firOf, smoothOf, Prod.mk.injEq, Fir.mk.injEq, Smooth.mk.injEq, and_assoc] using same

end Sys2Proof.Machine
end

section
/-! The Estimator's own statements (42_estimator.md): PROCESS (R200), the series of a block (R202), the peak, the sum of squares, the root
and the crossings (R204 to R210), the smoothing averages (R213), PROC_DONE (R212, R214) and its time (R201). -/

namespace Sys2Proof.Machine

/-! ## PROCESS -/

theorem muProcess_accepted {c : Config} {m : MU} (h : m.ready = true ∧ m.procBusy = false) :
    muProcess c m = { m with ready := false, procBusy := true, procCnt := c.procLatency } := if_pos h

theorem muProcess_refused {c : Config} {m : MU} (h : ¬(m.ready = true ∧ m.procBusy = false)) : muProcess c m = setCmdErr m := if_neg h

/-- PROCESS is its effect on the MU and a write's response. -/
theorem exec_process (hi : BitVec 24) (s : State) : exec (.process hi) s = .next (respondWrite (s.onMu (muProcess s.cfg))) := rfl

/-- Settles O12: the acceptance test decides between the two effects. -/
theorem processAcceptedOrRefused : Obligations.ProcessAcceptedOrRefused := by
  intro hi s
  refine ⟨decodeBus_cmd hi 0x02#8, fun hacc => ⟨none, ?_⟩, fun href => ⟨none, ?_⟩⟩
  · rw [exec_process, State.onMu, muProcess_accepted hacc]; rfl
  · rw [exec_process, State.onMu, muProcess_refused href]; rfl

/-! ## The series -/

/-- A reading less ADC_MID: both are below 2^12 (R171). -/
theorem centre_range {c : Config} (l : Bounds c) (raw : Reading) : inS16 (centre c raw) := by
  have hraw := raw.isLt
  have hmid : c.adcMid < 2 ^ 12 := l.adcMid.trans_le (Nat.pow_le_pow_right (by decide) l.adcBitsHigh)
  unfold centre inS16
  omega

theorem centredBlock_range {c : Config} (l : Bounds c) (m : MU) : ∀ v ∈ centredBlock c m, inS16 v := by
  intro v hv
  obtain ⟨j, _, rfl⟩ := List.mem_map.mp hv
  exact centre_range l _

theorem filterBlock_fst (c : Config) (xs : List Int) (f : Fir) :
    (filterBlock c xs f).1 = if c.firEn = true then (firRun c xs f).1 else f := apply_ite Prod.fst _ _ _

theorem filterBlock_snd (c : Config) (xs : List Int) (f : Fir) :
    (filterBlock c xs f).2 = if c.firEn = true then (firRun c xs f).2 else xs := apply_ite Prod.snd _ _ _

theorem filterBlock_range {c : Config} {xs : List Int} (f : Fir) (h : ∀ v ∈ xs, inS16 v) : ∀ v ∈ (filterBlock c xs f).2, inS16 v := by
  rw [filterBlock_snd]
  split_ifs
  · exact firRun_range c xs f
  · exact h

theorem integrate_on {c : Config} (h : c.integEn = true) (fs : List Int) : integrate c fs = integrateFrom c 0 fs := if_pos h

theorem integrate_off {c : Config} (h : c.integEn = false) (fs : List Int) : integrate c fs = fs := if_neg (by rw [h]; decide)

theorem integrate_range {c : Config} {fs : List Int} (h : ∀ v ∈ fs, inS16 v) : ∀ v ∈ integrate c fs, inS16 v := by
  cases hi : c.integEn with
  | true => rw [integrate_on hi]; exact integrateFrom_range c 0 fs
  | false => rw [integrate_off hi]; exact h

theorem series_fst (c : Config) (m : MU) : (series c m).1 = (filterBlock c (centredBlock c m) (firOf m)).1 := rfl

theorem series_snd (c : Config) (m : MU) : (series c m).2 = integrate c (filterBlock c (centredBlock c m) (firOf m)).2 := rfl

/-- Settles O34: the range goes through the three stages of the series, and the last one is described sample by sample. -/
theorem seriesStaysInSixteenBits : Obligations.SeriesStaysInSixteenBits := by
  intro c m hl _ x f e
  have hf : (filterBlock c (centredBlock c m) (firOf m)).2 = f := filterBlock_snd _ _ _
  have he : e = integrate c f := (series_snd c m).trans (congrArg (integrate c) hf)
  have hlen : f.length = c.blockN := by rw [← hf, filterBlock_length, centredBlock_length]
  have hrange : ∀ v ∈ f, inS16 v := hf ▸ filterBlock_range _ (centredBlock_range (legal_bounds hl) m)
  refine ⟨series_length c m, he ▸ integrate_range hrange, (series_fst c m).trans (filterBlock_fst _ _ _),
    fun hoff => he.trans (integrate_off hoff f), fun hon j hj => ?_⟩
  rw [he, integrate_on hon]
  exact integrateFrom_getD c 0 f j (hlen ▸ hj)

/-! ## The peak -/

theorem peakRaw_cons (v : Int) (e : List Int) : peakRaw (v :: e) = max v.natAbs (peakRaw e) := rfl

theorem peakRaw_le_iff {e : List Int} {b : Nat} : peakRaw e ≤ b ↔ ∀ v ∈ e, v.natAbs ≤ b := by
  induction e with
  | nil => simp [peakRaw]
  | cons v e ih => rw [peakRaw_cons, max_le_iff, ih, List.forall_mem_cons]

/-- The peak of a series that is not empty is taken by one of its samples. -/
theorem exists_mem_natAbs_eq_peakRaw {e : List Int} (h : e ≠ []) : ∃ v ∈ e, v.natAbs = peakRaw e := by
  induction e with
  | nil => exact absurd rfl h
  | cons v e ih =>
    rw [peakRaw_cons]
    by_cases he : peakRaw e ≤ v.natAbs
    · exact ⟨v, List.mem_cons_self, (max_eq_left he).symm⟩
    · have hne : e ≠ [] := by rintro rfl; exact he (Nat.zero_le _)
      obtain ⟨w, hw, heq⟩ := ih hne
      exact ⟨w, List.mem_cons_of_mem _ hw, heq.trans (max_eq_right (le_of_not_ge he)).symm⟩

/-- Settles O35: the peak is the least bound on the magnitudes, and one of them. -/
theorem peakIsLargestMagnitude : Obligations.PeakIsLargestMagnitude := by
  intro e hne
  refine ⟨peakRaw_le_iff.mp le_rfl, exists_mem_natAbs_eq_peakRaw hne, fun hrange => peakRaw_le_iff.mpr fun v hv => ?_⟩
  have hv : inS16 v := hrange v hv
  unfold inS16 at hv
  omega

/-! ## The sum of squares -/

/-- Clamping each partial sum is clamping the whole sum, from any clamped start. -/
theorem foldl_clamped_squares (e : List Int) (a b : Nat) :
    e.foldl (fun a v => min (a + v.natAbs * v.natAbs) b) (min a b) = min (a + sumSqExact e) b := by
  induction e generalizing a with
  | nil => rfl
  | cons v e ih =>
    have hclamp : min (min a b + v.natAbs * v.natAbs) b = min (a + v.natAbs * v.natAbs) b := by omega
    rw [List.foldl_cons, hclamp, ih, Nat.add_assoc]
    rfl

/-- Settles O36: from 0, clamping each partial sum is `satU32` of the exact sum. -/
theorem sumOfSquaresSaturates : Obligations.SumOfSquaresSaturates := by
  intro e
  have hfold := foldl_clamped_squares e 0 4294967295
  rw [Nat.zero_min, Nat.zero_add] at hfold
  exact ⟨hfold.symm, decide_eq_true_iff⟩

/-! ## The root -/

/-- Settles O37: sixteen digits from 0 reach every root below 2^16, and a saturated sum divided stays below 2^32. -/
theorem rootIsExactFloor : Obligations.RootIsExactFloor := by
  refine ⟨fun m hm => ?_, fun c e => ⟨rfl, (Nat.div_le_self _ _).trans_lt (satU32_lt _)⟩⟩
  obtain ⟨hlow, hhigh⟩ := isqrtFrom_spec m 16 0 (Nat.zero_le _) hm
  have hroot : isqrt m < 2 ^ 16 := lt_of_mul_self_lt_mul_self₀ (Nat.zero_le _) (hlow.trans_lt hm)
  exact ⟨hlow, hhigh, Nat.le_of_lt_succ hroot⟩

/-! ## The crossings -/

/-- The samples `j` and `j + 1` of a series differ in sign, 0 being non-negative (R210). -/
def crossesAt (e : List Int) (j : Nat) : Bool := decide (e.getD j 0 < 0) != decide (e.getD (j + 1) 0 < 0)

theorem crossesAt_iff {e : List Int} {j : Nat} : crossesAt e j = true ↔ ¬(e.getD j 0 < 0 ↔ e.getD (j + 1) 0 < 0) := by
  simp [crossesAt]

/-- R210: the positions of the crossings, counted. -/
theorem zeroCrossings_eq_count (e : List Int) : zeroCrossings e = ((List.range (e.length - 1)).filter (crossesAt e)).length := by
  induction e using zeroCrossings.induct with
  | case1 => rfl
  | case2 => rfl
  | case3 a b rest ih =>
    have hfirst : (isNeg a ≠ isNeg b) = (crossesAt (a :: b :: rest) 0 = true) := by simp [crossesAt, isNeg]
    have hlater : crossesAt (a :: b :: rest) ∘ Nat.succ = crossesAt (b :: rest) := rfl
    simp only [zeroCrossings, ih, hfirst, List.length_cons, Nat.add_sub_cancel, List.range_succ_eq_map, List.filter_cons, List.filter_map,
      hlater]
    split_ifs
    · simp [Nat.add_comm]
    · simp

theorem zeroCrossings_le (e : List Int) : zeroCrossings e ≤ e.length - 1 := by
  rw [zeroCrossings_eq_count]
  exact (List.length_filter_le _ _).trans_eq List.length_range

/-- Settles O38: the filter that counts the crossings keeps every position, or none. -/
theorem zeroCrossingCounts : Obligations.ZeroCrossingCounts := by
  intro e
  refine ⟨zeroCrossings_eq_count e, zeroCrossings_le e, fun halt => ?alternating, fun hagree => ?agreeing⟩
  all_goals rw [zeroCrossings_eq_count]
  case alternating =>
    have hall : ∀ j ∈ List.range (e.length - 1), crossesAt e j = true := by
      intro j hj
      have hj := List.mem_range.mp hj
      rw [crossesAt_iff, halt j (by omega)]
      tauto
    rw [List.filter_eq_self.mpr hall, List.length_range]
  case agreeing =>
    have hnone : ∀ j ∈ List.range (e.length - 1), ¬ crossesAt e j = true := by
      intro j hj
      have hj := List.mem_range.mp hj
      rw [crossesAt_iff, not_not]
      exact hagree j (by omega)
    rw [List.filter_eq_nil_iff.mpr hnone, List.length_nil]

/-! ## The smoothing averages -/

/-- The sum of a list lies between its length times a lower bound and its length times an upper one. -/
theorem truncatedMean_range {vs : List Nat} {lo hi : Nat} (hne : 0 < vs.length) (h : ∀ v ∈ vs, lo ≤ v ∧ v ≤ hi) :
    lo ≤ vs.sum / vs.length ∧ vs.sum / vs.length ≤ hi := by
  have hlow : vs.length * lo ≤ vs.sum := List.card_nsmul_le_sum vs lo fun v hv => (h v hv).1
  have hhigh : vs.sum ≤ vs.length * hi := List.sum_le_card_nsmul vs hi fun v hv => (h v hv).2
  exact ⟨(Nat.le_div_iff_mul_le hne).mpr (Nat.mul_comm _ lo ▸ hlow), Nat.div_le_of_le_mul hhigh⟩

/-- Settles O39: the average is the truncated mean of the first n slots. -/
theorem smoothingAverageStaysInRange : Obligations.SmoothingAverageStaysInRange := by
  intro buf n lo hi hn hslots
  have hmem : ∀ v ∈ (List.range n).map (fun k => (buf.getD k 0#16).toNat), lo ≤ v ∧ v ≤ hi := by
    intro v hv
    obtain ⟨k, hk, rfl⟩ := List.mem_map.mp hv
    exact hslots k (List.mem_range.mp hk)
  have hne : 0 < ((List.range n).map (fun k => (buf.getD k 0#16).toNat)).length := by
    rw [List.length_map, List.length_range]; exact hn
  simpa only [averageOf, List.length_map, List.length_range] using truncatedMean_range hne hmem

/-- What PROC_DONE makes of the smoothing state with smoothing on. -/
theorem smooth_on {c : Config} (p r : Nat) (b : Smooth) (h : 1 ≤ c.smoothLen) :
    smooth c p r b =
      ({ maPeak := b.maPeak.set b.maIdx (BitVec.ofNat 16 p), maRms := b.maRms.set b.maIdx (BitVec.ofNat 16 r),
         maIdx := (b.maIdx + 1) % c.smoothLen, maCnt := min (b.maCnt + 1) c.smoothLen },
       averageOf (b.maPeak.set b.maIdx (BitVec.ofNat 16 p)) (min (b.maCnt + 1) c.smoothLen),
       averageOf (b.maRms.set b.maIdx (BitVec.ofNat 16 r)) (min (b.maCnt + 1) c.smoothLen)) :=
  if_neg (by omega)

/-- A 16-bit average survives its result register. -/
theorem toNat_ofNat_averageOf (buf : List Half) (n : Nat) : (BitVec.ofNat 16 (averageOf buf n)).toNat = averageOf buf n := by
  rw [BitVec.toNat_ofNat, Nat.mod_eq_of_lt (Nat.lt_succ_of_le (averageOf_le buf n))]

theorem slot_set_same {buf : List Half} {i : Nat} (v : Half) (h : i < buf.length) : (buf.set i v).getD i 0#16 = v := by
  rw [List.getD_eq_getElem?_getD, List.getElem?_set_self h, Option.getD_some]

theorem slot_set_other {buf : List Half} {i k : Nat} (v : Half) (h : k ≠ i) : (buf.set i v).getD k 0#16 = buf.getD k 0#16 := by
  rw [List.getD_eq_getElem?_getD, List.getElem?_set_ne h.symm, List.getD_eq_getElem?_getD]

/-! ## PROC_DONE -/

/-- PROC_DONE in terms of the series and of what SMOOTH gives: the buffers, the peak and the RMS (R212). -/
theorem procDone_eq (c : Config) (m : MU) :
    procDone c m =
      let o := smooth c (peakScaled c (series c m).2) (rmsScaled c (series c m).2) (smoothOf m)
      { m with
        tap := (series c m).1.tap, tapIdx := (series c m).1.tapIdx
        maPeak := o.1.maPeak, maRms := o.1.maRms, maIdx := o.1.maIdx, maCnt := o.1.maCnt
        resPeak := BitVec.ofNat 16 o.2.1, resRms := BitVec.ofNat 16 o.2.2
        resFreq := BitVec.ofNat 16 (freqScaled c (series c m).2)
        resValid := true, procBusy := false, sqOvf := m.sqOvf || sumSqOvf (series c m).2 } := rfl

/-- Settles O40: with smoothing off the scaled values are committed as they are, and the buffers are written back unchanged. -/
theorem procDoneCommitsUnsmoothed : Obligations.ProcDoneCommitsUnsmoothed := by
  intro c m _ hoff
  rw [procDone_eq, smooth_off _ _ _ _ hoff]
  rfl

/-- The MU after a PROC_DONE with smoothing on (R212, R213). -/
theorem procDone_smoothed {c : Config} (m : MU) (h : 1 ≤ c.smoothLen) :
    procDone c m =
      let peaks := m.maPeak.set m.maIdx (BitVec.ofNat 16 (peakScaled c (series c m).2))
      let rmss := m.maRms.set m.maIdx (BitVec.ofNat 16 (rmsScaled c (series c m).2))
      let n := min (m.maCnt + 1) c.smoothLen
      { m with
        tap := (series c m).1.tap, tapIdx := (series c m).1.tapIdx
        maPeak := peaks, maRms := rmss, maIdx := (m.maIdx + 1) % c.smoothLen, maCnt := n
        resPeak := BitVec.ofNat 16 (averageOf peaks n), resRms := BitVec.ofNat 16 (averageOf rmss n)
        resFreq := BitVec.ofNat 16 (freqScaled c (series c m).2)
        resValid := true, procBusy := false, sqOvf := m.sqOvf || sumSqOvf (series c m).2 } := by
  rw [procDone_eq, smooth_on _ _ _ h]
  rfl

/-- Settles O41: the two slots read back what was written to them, and an average fits its register. -/
theorem procDoneSmoothsPeakAndRms : Obligations.ProcDoneSmoothsPeakAndRms := by
  intro c m _ hon hpeak hrms f e t n
  have ht : t = _ := procDone_smoothed m hon
  rw [ht]
  dsimp only
  refine ⟨?_, ?_, fun k hk => ⟨slot_set_other _ hk, slot_set_other _ hk⟩, List.length_set, List.length_set,
    toNat_ofNat_averageOf _ _, toNat_ofNat_averageOf _ _, rfl⟩
  · rw [slot_set_same _ hpeak]; exact toNat_ofNat_satU16 _
  · rw [slot_set_same _ hrms]; exact toNat_ofNat_satU16 _

/-- Settles O42: a series of one sample has no consecutive pair. -/
theorem singleSampleBlockHasFrequencyZero : Obligations.SingleSampleBlockHasFrequencyZero := by
  intro c m hN
  have hzc : zeroCrossings (series c m).2 = 0 := by
    have hle := zeroCrossings_le (series c m).2
    rw [series_length, hN] at hle
    exact Nat.le_zero.mp hle
  have hfreq : freqScaled c (series c m).2 = 0 := by rw [freqScaled, hzc]; simp [freqOf, satU16]
  exact congrArg (BitVec.ofNat 16) hfreq

/-! ## The time of PROC_DONE -/

/-- The processing engine before its last count. -/
theorem procCount_counts {c : Config} {m : MU} (hb : m.procBusy = true) (hc : 2 ≤ m.procCnt) :
    procCount c m = { m with procCnt := m.procCnt - 1 } := by
  unfold procCount
  rw [if_pos hb]
  exact if_neg (show ¬ m.procCnt - 1 = 0 by omega)

theorem procRun_succ (c : Config) (n : Nat) (m : MU) : procRun c (n + 1) m = procCount c (procRun c n m) :=
  Function.iterate_succ_apply' _ _ _

/-- Fewer cycles than the count only count down (R201). -/
theorem procRun_counts {c : Config} {m : MU} (hb : m.procBusy = true) {n : Nat} (hn : n < m.procCnt) :
    procRun c n m = { m with procCnt := m.procCnt - n } := by
  induction n with
  | zero => rfl
  | succ n ih =>
    have hleft : 2 ≤ m.procCnt - n := by omega
    rw [procRun_succ, ih (by omega)]
    exact procCount_counts (m := { m with procCnt := m.procCnt - n }) hb hleft

/-- Settles O43: all cycles but the last count down, and the last finds the count at 1. -/
theorem procDoneAfterProcLatency : Obligations.ProcDoneAfterProcLatency := by
  intro c m hlat hb hcnt
  have hcounts : ∀ n < c.procLatency, procRun c n m = { m with procCnt := c.procLatency - n } :=
    fun n hn => hcnt ▸ procRun_counts hb (hcnt ▸ hn)
  refine ⟨hcounts, ?_⟩
  obtain ⟨k, hk⟩ := Nat.exists_eq_add_of_le' hlat
  rw [hk, procRun_succ, hcounts k (by omega), hk, Nat.add_sub_cancel_left]
  exact procCount_due hb (le_refl 1)

end Sys2Proof.Machine
end

section
/-! The Framer's own statements (43_framer.md): SEND (R250), TX_STEP's frame and those of the other internal steps (R251, R254), the whole
transfer of a frame (R253, R256, R258), the accepting cycle of SEND and PROCESS (R201, R254), and the two units beside each other
(R257, R343). -/

namespace Sys2Proof.Machine

/-! ## SEND -/

/-- R110: the first two bytes of a frame are constant. -/
theorem frameOf_eq (p r f : Half) : frameOf p r f = 0x0200#16 ++ p ++ r ++ f := rfl

/-- The first bit of a frame is bit 7 of the sentinel. -/
theorem frame_first_bit (p r f : Half) : (0x0200#16 ++ p ++ r ++ f).getLsbD 63 = false :=
  (bit_above (0x0200#16 ++ p ++ r) f (a := 47)).trans <|
    (bit_above (0x0200#16 ++ p) r (a := 31)).trans <| (bit_above 0x0200#16 p (a := 15)).trans rfl

theorem muSend_accepted {m : MU} (h : m.txState = .idle) :
    muSend m = ({ m with
      txShift := 0x0200#16 ++ m.resPeak ++ m.resRms ++ m.resFreq, txBitcnt := 0, txCyc := 0, txState := .pre,
      csN := false, sclk := false, mosi := false }, [.csFall]) := by
  simp only [muSend, if_pos h, frameOf_eq]
  rw [frame_first_bit]

theorem muSend_refused {m : MU} (h : m.txState ≠ .idle) : muSend m = (setCmdErr m, []) := if_neg h

theorem sendFrame_eq (s : State) : sendFrame s = { s with mu := (muSend s.mu).1, link := s.link ++ (muSend s.mu).2 } := rfl

/-- SEND is its effect on the MU and the link, and a write's response. -/
theorem exec_send (hi : BitVec 24) (s : State) : exec (.send hi) s = .next (respondWrite (sendFrame s)) := rfl

/-- Settles O13: the state of the transmitter decides between the two effects. -/
theorem sendAcceptedOrRefused : Obligations.SendAcceptedOrRefused := by
  intro hi s
  refine ⟨decodeBus_cmd hi 0x03#8, fun hacc => ⟨none, ?_⟩, fun href => ⟨none, ?_⟩⟩
  · rw [exec_send, sendFrame_eq, muSend_accepted hacc]; rfl
  · rw [exec_send, sendFrame_eq, muSend_refused href, List.append_nil]; rfl

/-! ## The fields of the internal steps -/

/-- `o` is `m` with the Framer's fields and pins set anew, and at most one event. -/
def KeepsToFramer (m : MU) (o : MU × List LinkEvent) : Prop :=
  (∃ st sh n k cs sc mo, o.1 = { m with
      txState := st, txShift := sh, txBitcnt := n, txCyc := k, csN := cs, sclk := sc, mosi := mo })
    ∧ o.2.length ≤ 1

theorem txWait_keepsToFramer (m : MU) : KeepsToFramer m (txWait m) := ⟨⟨_, _, _, _, _, _, _, rfl⟩, Nat.zero_le _⟩

theorem txFinish_keepsToFramer (m : MU) : KeepsToFramer m (txFinish m) := ⟨⟨_, _, _, _, _, _, _, rfl⟩, le_rfl⟩

theorem enterLow_keepsToFramer (m : MU) : KeepsToFramer m (enterLow m, []) := ⟨⟨_, _, _, _, _, _, _, rfl⟩, Nat.zero_le _⟩

theorem txLow_keepsToFramer (c : Config) (m : MU) : KeepsToFramer m (txLow c m) := by
  unfold txLow
  split_ifs
  · exact ⟨⟨_, _, _, _, _, _, _, rfl⟩, le_rfl⟩
  · exact txWait_keepsToFramer m

theorem txHigh_keepsToFramer (c : Config) (m : MU) : KeepsToFramer m (txHigh c m) := by
  unfold txHigh txAfterBits
  dsimp only
  split_ifs
  · exact ⟨⟨_, _, _, _, _, _, _, rfl⟩, le_rfl⟩
  · exact ⟨⟨_, _, _, _, _, _, _, rfl⟩, Nat.zero_le _⟩
  · exact ⟨⟨_, _, _, _, _, _, _, rfl⟩, Nat.zero_le _⟩
  · exact txWait_keepsToFramer m

theorem txStep_idle {c : Config} {m : MU} (h : m.txState = .idle) : txStep c m = (m, []) := by
  simp only [txStep, h]

theorem txStep_keepsToFramer (c : Config) (m : MU) : KeepsToFramer m (txStep c m) := by
  cases hs : m.txState with
  | idle => rw [txStep_idle hs]; exact ⟨⟨_, _, _, _, _, _, _, rfl⟩, Nat.zero_le _⟩
  | pre =>
    simp only [txStep, hs]
    split_ifs
    · exact txLow_keepsToFramer c (enterLow m)
    · exact enterLow_keepsToFramer m
    · exact txWait_keepsToFramer m
  | bits =>
    simp only [txStep, hs]
    split_ifs
    · exact txHigh_keepsToFramer c m
    · exact txLow_keepsToFramer c m
  | post =>
    simp only [txStep, hs]
    split_ifs
    · exact txFinish_keepsToFramer m
    · exact txWait_keepsToFramer m

/-- Settles O27: phase by phase, and an idle transmitter does nothing. -/
theorem txStepFrame : Obligations.TxStepFrame := by
  intro c m
  obtain ⟨hfields, hevents⟩ := txStep_keepsToFramer c m
  exact ⟨hfields, txStep_idle, hevents⟩

/-- R146, R147: ADC_DONE writes the Sampler's fields alone. -/
theorem adcDone_fields (c : Config) (v : Reading) (m : MU) :
    ∃ te tc ce ap ix bl rd, adcDone c v m = { m with
      tickEn := te, tcnt := tc, convEn := ce, adcPending := ap, idx := ix, blk := bl, ready := rd } := by
  cases hp : m.adcPending with
  | false => rw [adcDone_of_not_pending hp]; exact ⟨_, _, _, _, _, _, _, rfl⟩
  | true =>
    rcases Nat.lt_trichotomy (m.idx + 1) c.blockN with hi | hi | hi
    · rw [adcDone_stores hp hi]; exact ⟨_, _, _, _, _, _, _, rfl⟩
    · rw [adcDone_fills hp hi]; exact ⟨_, _, _, _, _, _, _, rfl⟩
    · rw [adcDone_drops hp (Nat.le_of_lt_succ hi)]; exact ⟨_, _, _, _, _, _, _, rfl⟩

/-- R142 to R144: TIMER_COUNT, with its TICK, writes `tcnt`, a request for a conversion or TICK_MISSED. -/
theorem timerCount_fields (c : Config) (m : MU) :
    ∃ tc ap st tm, timerCount c m = { m with tcnt := tc, adcPending := ap, adcStart := st, tickMissed := tm } := by
  unfold timerCount tick
  split_ifs <;> exact ⟨_, _, _, _, rfl⟩

/-- R201, R212: the processing engine counts, or performs PROC_DONE. -/
theorem procCount_fields (c : Config) (m : MU) :
    ∃ tp ti pb pc rp rr rf rv mp mr mi mc so, procCount c m = { m with
      tap := tp, tapIdx := ti, procBusy := pb, procCnt := pc, resPeak := rp, resRms := rr, resFreq := rf, resValid := rv,
      maPeak := mp, maRms := mr, maIdx := mi, maCnt := mc, sqOvf := so } := by
  cases hb : m.procBusy with
  | false => exact ⟨_, _, _, _, _, _, _, _, _, _, _, _, _, by rw [procCount, hb]; rfl⟩
  | true =>
    rcases Nat.lt_or_ge m.procCnt 2 with hc | hc
    · rw [procCount_due hb (Nat.le_of_lt_succ hc), procDone_eq]; exact ⟨_, _, _, _, _, _, _, _, _, _, _, _, _, rfl⟩
    · rw [procCount_counts hb hc]; exact ⟨_, _, _, _, _, _, _, _, _, _, _, _, _, rfl⟩

/-- Settles O44: the three steps one by one. -/
theorem internalStepsKeepToTheirFields : Obligations.InternalStepsKeepToTheirFields :=
  fun c v m => ⟨adcDone_fields c v m, timerCount_fields c m, procCount_fields c m⟩

/-! ## The transfer of a frame -/

/-- SEND leaves the transmitter before the first bit of the frame. -/
theorem enterLow_muSend {m : MU} (h : m.txState = .idle) :
    enterLow (muSend m).1 = atBit m (0x0200#16 ++ m.resPeak ++ m.resRms ++ m.resFreq) 0 := by
  rw [muSend_accepted h]; simp only [enterLow, atBit, BitVec.shiftLeft_zero, Nat.sub_zero]

/-- From SEND on, with at least one cycle after the guard: the guard takes GUARD_PRE cycles and puts nothing on the link (R253). -/
theorem txRun_guardPre_add {c : Config} {m : MU} (hs : m.txState = .pre) (h0 : m.txCyc = 0) {n : Nat} (hn : 1 ≤ n) :
    txRun c (c.guardPre + n) m = txRun c n (enterLow m) := by
  rcases Nat.eq_zero_or_pos c.guardPre with hg | hg
  · obtain ⟨k, rfl⟩ := Nat.exists_eq_add_of_le' hn
    rw [hg, Nat.zero_add, txRun_no_pre c k m hg hs]
  · rw [txRun_add, txRun_pre c m hg hs h0]; rfl

/-- The cycles of a bit's high half before the last only count. -/
theorem txRun_high_counts {c : Config} {m : MU} (hs : m.txState = .bits) (hc : m.sclk = true) (h0 : m.txCyc = 0) {n : Nat}
    (hn : n < c.sclkDiv) : txRun c n m = ({ m with txCyc := n }, []) := by
  refine txRun_wait c n m h0 fun k hk => ?_
  have hwait : ¬ c.sclkDiv ≤ k + 1 := by omega
  simp only [txStep, hs, hc, txHigh, if_true, hwait, if_false, txWait]

/-- The cycles of the guard after the last bit before the last only count. -/
theorem txRun_post_counts {c : Config} {m : MU} (hs : m.txState = .post) (h0 : m.txCyc = 0) {n : Nat} (hn : n < c.guardPost) :
    txRun c n m = ({ m with txCyc := n }, []) := by
  refine txRun_wait c n m h0 fun k hk => ?_
  have hwait : ¬ c.guardPost ≤ k + 1 := by omega
  simp only [txStep, hs, hwait, if_false, txWait]

/-- The transmitter is in the last cycle of a transfer: the next TX_STEP completes it, with all bits counted (R256). -/
structure LastCycle (c : Config) (m : MU) : Prop where
  busy : m.txState ≠ .idle
  completes : ∃ m', txStep c m = txFinish m' ∧ m'.txBitcnt = 64

/-- The last cycle of the last bit's high half, where no guard follows it. -/
theorem lastCycle_high {c : Config} {m : MU} (hg : c.guardPost = 0) (hs : m.txState = .bits) (hc : m.sclk = true)
    (hb : m.txBitcnt = 63) (hcyc : c.sclkDiv ≤ m.txCyc + 1) : LastCycle c m := by
  refine ⟨by rw [hs]; decide, shiftBit m, ?_, congrArg (· + 1) hb⟩
  have hcount : 64 ≤ (shiftBit m).txBitcnt := by rw [shiftBit_txBitcnt, hb]
  simp only [txStep, hs, hc, txHigh, txAfterBits, hcyc, hcount, hg, if_true]

/-- The last cycle of the guard after the last bit. -/
theorem lastCycle_post {c : Config} {m : MU} (hs : m.txState = .post) (hb : m.txBitcnt = 64) (hcyc : c.guardPost ≤ m.txCyc + 1) :
    LastCycle c m := by
  refine ⟨by rw [hs]; decide, m, ?_, hb⟩
  simp only [txStep, hs, hcyc, if_true]

/-- From the start of the last bit to the last cycle of the transfer, which is one of the bit's high half or one of the guard. -/
theorem txRun_atBit_last (c : Config) (m : MU) (w : FrameWord) (hd : 1 ≤ c.sclkDiv) :
    ∃ m1, txRun c (2 * c.sclkDiv + c.guardPost - 1) (atBit m w 63) = (m1, [.bit (w.getLsbD 0)]) ∧ LastCycle c m1 := by
  rcases Nat.eq_zero_or_pos c.guardPost with hg | hg
  · have hcycles : 2 * c.sclkDiv + c.guardPost - 1 = c.sclkDiv + (c.sclkDiv - 1) := by omega
    rw [hcycles, txRun_add, txRun_low c (atBit m w 63) hd rfl rfl rfl, txRun_high_counts rfl rfl rfl (by omega)]
    exact ⟨_, rfl, lastCycle_high hg rfl rfl rfl (by simp only; omega)⟩
  · have hcycles : 2 * c.sclkDiv + c.guardPost - 1 = 2 * c.sclkDiv + (c.guardPost - 1) := by omega
    have hne : c.guardPost ≠ 0 := by omega
    simp only [hcycles, txRun_add, txRun_last_bit c m w hd, txAfterBits, hne, if_false]
    rw [txRun_post_counts rfl rfl (by omega)]
    exact ⟨_, rfl, lastCycle_post rfl rfl (by simp only; omega)⟩

/-- The bits of a word in the order of the link (R112, R258). -/
def wordEvents (w : FrameWord) : List LinkEvent := (List.range 64).map (fun k => .bit (w.getLsbD (63 - k)))

/-- R253: all cycles of a transfer but the last put the 64 bits on the link. -/
theorem txRun_to_lastCycle {c : Config} {m : MU} (hd : 1 ≤ c.sclkDiv) (h : m.txState = .idle) :
    ∃ m1, txRun c (txCycles c - 1) (muSend m).1 = (m1, wordEvents (0x0200#16 ++ m.resPeak ++ m.resRms ++ m.resFreq))
      ∧ LastCycle c m1 := by
  have hcycles : txCycles c - 1 = c.guardPre + (63 * (2 * c.sclkDiv) + (2 * c.sclkDiv + c.guardPost - 1)) := by
    unfold txCycles; omega
  obtain ⟨m1, hrun, hlast⟩ := txRun_atBit_last c m (0x0200#16 ++ m.resPeak ++ m.resRms ++ m.resFreq) hd
  refine ⟨m1, ?_, hlast⟩
  have hpre : (muSend m).1.txState = .pre ∧ (muSend m).1.txCyc = 0 := by rw [muSend_accepted h]; exact ⟨rfl, rfl⟩
  rw [hcycles, txRun_guardPre_add hpre.1 hpre.2 (by omega), enterLow_muSend h, txRun_add, txRun_bits c m _ hd 63 le_rfl, hrun,
    wordEvents, List.range_succ, List.map_append]
  rfl

/-- A transmitter that is busy in the end was busy all along. -/
theorem txRun_busy_before {c : Config} {m : MU} {n k : Nat} (hn : n ≤ k) (h : (txRun c k m).1.txState ≠ .idle) :
    (txRun c n m).1.txState ≠ .idle := by
  intro hidle
  obtain ⟨j, rfl⟩ := Nat.exists_eq_add_of_le hn
  rw [txRun_add, txRun_idle c j _ hidle] at h
  exact h hidle

/-- `cs_n` is low while the transmitter is busy (R252). -/
def SelectsWhileBusy (m : MU) : Prop := m.txState ≠ .idle → m.csN = false

theorem txLow_csN (c : Config) (m : MU) : (txLow c m).1.csN = m.csN := by
  unfold txLow
  split_ifs <;> rfl

theorem txHigh_selectsWhileBusy (c : Config) {m : MU} (h : m.csN = false) : SelectsWhileBusy (txHigh c m).1 := by
  unfold txHigh txAfterBits
  dsimp only
  split_ifs
  · exact fun hbusy => absurd rfl hbusy
  · exact fun _ => rfl
  · exact fun _ => rfl
  · exact fun _ => h

theorem txStep_selectsWhileBusy (c : Config) {m : MU} (h : SelectsWhileBusy m) : SelectsWhileBusy (txStep c m).1 := by
  cases hs : m.txState with
  | idle => rw [txStep_idle hs]; exact h
  | pre =>
    have hcs : m.csN = false := h (by rw [hs]; decide)
    simp only [txStep, hs]
    split_ifs
    · exact fun _ => txLow_csN c (enterLow m)
    · exact fun _ => rfl
    · exact fun _ => hcs
  | bits =>
    have hcs : m.csN = false := h (by rw [hs]; decide)
    simp only [txStep, hs]
    split_ifs
    · exact txHigh_selectsWhileBusy c hcs
    · exact fun _ => (txLow_csN c m).trans hcs
  | post =>
    have hcs : m.csN = false := h (by rw [hs]; decide)
    simp only [txStep, hs]
    split_ifs
    · exact fun hbusy => absurd rfl hbusy
    · exact fun _ => hcs

theorem txRun_selectsWhileBusy (c : Config) (n : Nat) {m : MU} (h : SelectsWhileBusy m) : SelectsWhileBusy (txRun c n m).1 := by
  induction n generalizing m with
  | zero => exact h
  | succ n ih => exact ih (txStep_selectsWhileBusy c h)

/-- Settles O25: up to the last cycle the transmitter is busy and has put the bits on the link, and that cycle completes the transfer. -/
theorem sendProducesItsFrameOnTheLink : Obligations.SendProducesItsFrameOnTheLink := by
  intro c m hd hidle m0 w
  obtain ⟨m1, hrun, hbusy, m', hstep, hcount⟩ := txRun_to_lastCycle hd hidle
  have hcycles : txCycles c = txCycles c - 1 + 1 := by unfold txCycles; omega
  have hevents : (muSend m).2 = [.csFall] := by rw [muSend_accepted hidle]
  have hselects : SelectsWhileBusy m0 := fun _ => congrArg (MU.csN ∘ Prod.fst) (muSend_accepted hidle)
  have hall : txRun c (txCycles c) m0 = ((txFinish m').1, wordEvents w ++ [.csRise]) := by
    rw [hcycles, txRun_add, hrun, txRun_succ, hstep]; rfl
  have hn : ∀ n < txCycles c, (txRun c n m0).1.txState ≠ .idle := fun n hn =>
    txRun_busy_before (Nat.le_sub_one_of_lt hn) (by rw [hrun]; exact hbusy)
  rw [hevents, hall]
  exact ⟨rfl, fun n h => ⟨txRun_selectsWhileBusy c n hselects (hn n h), hn n h⟩, rfl, rfl, rfl, rfl, hcount⟩

/-! ## The cycle that accepts a command -/

/-- With the transmitter idle at its start a cycle leaves the Framer's fields and the link to the access (R254). -/
theorem finishMuCycle_of_tx_idle {i : MuIn} {m0 : MU} {s : State} (h : m0.txState = .idle) :
    (finishMuCycle i m0 s).link = s.link ∧ (finishMuCycle i m0 s).mu.txState = s.mu.txState
      ∧ (finishMuCycle i m0 s).mu.txCyc = s.mu.txCyc ∧ (finishMuCycle i m0 s).mu.csN = s.mu.csN := by
  obtain ⟨v, a, ds, n, e⟩ := finishMuCycle_eq i m0 s
  obtain ⟨m2, m4, h2, h4, h5⟩ := finishMu_eq s.cfg m0 v s.mu
  have hbusy : txBusy m0 = false := by rw [txBusy, h]; rfl
  have e5 : finishMu s.cfg m0 v s.mu = (m4, []) := by
    rcases h5 with ⟨_, e5⟩ | ⟨hb, _⟩
    · exact e5
    · rw [hbusy] at hb; cases hb
  have e4 : m4.txState = m2.txState ∧ m4.txCyc = m2.txCyc ∧ m4.csN = m2.csN := by
    rcases h4 with ⟨_, rfl⟩ | ⟨_, rfl⟩ <;> simp
  have e2 : m2.txState = s.mu.txState ∧ m2.txCyc = s.mu.txCyc ∧ m2.csN = s.mu.csN := by
    rcases h2 with rfl | ⟨r, rfl⟩ <;> simp
  rw [e, e5]
  exact ⟨List.append_nil _, e4.1.trans e2.1, e4.2.1.trans e2.2.1, e4.2.2.trans e2.2.2⟩

/-- With the processing engine idle at its start, and no conversion pending, a cycle leaves the Estimator's fields and `ready` to the
access (R201). -/
theorem finishMuCycle_of_proc_idle {i : MuIn} {m0 : MU} {s : State} (h : m0.procBusy = false) (hp : s.mu.adcPending = false) :
    (finishMuCycle i m0 s).mu.procBusy = s.mu.procBusy ∧ (finishMuCycle i m0 s).mu.procCnt = s.mu.procCnt
      ∧ (finishMuCycle i m0 s).mu.ready = s.mu.ready ∧ (finishMuCycle i m0 s).mu.resPeak = s.mu.resPeak
      ∧ (finishMuCycle i m0 s).mu.resRms = s.mu.resRms ∧ (finishMuCycle i m0 s).mu.resFreq = s.mu.resFreq := by
  obtain ⟨v, a, ds, n, e⟩ := finishMuCycle_eq i m0 s
  obtain ⟨m2, m4, h2, h4, h5⟩ := finishMu_eq s.cfg m0 v s.mu
  obtain rfl : m2 = s.mu := by
    rcases h2 with e2 | ⟨r, e2⟩
    · exact e2
    · exact e2.trans (adcDone_of_not_pending hp)
  obtain rfl : m4 = timerCount s.cfg s.mu := by
    rcases h4 with ⟨_, e4⟩ | ⟨hb, _⟩
    · exact e4
    · rw [h] at hb; cases hb
  rw [e]
  rcases h5 with ⟨_, e5⟩ | ⟨_, e5⟩ <;> simp [e5]

theorem exec_scriptSend (s : State) : exec (decodeBus scriptSend) s = .next (respondWrite (sendFrame s)) := by
  rw [show decodeBus scriptSend = .send 0#24 by decide, exec_send]

theorem exec_scriptProcess (s : State) :
    exec (decodeBus scriptProcess) s = .next (respondWrite (s.onMu (muProcess s.cfg))) := by
  rw [show decodeBus scriptProcess = .process 0#24 by decide, exec_process]

/-- Settles O51: the access accepts the command, and the rest of the cycle leaves the unit that was idle at its start alone. -/
theorem acceptingCycleDoesNotCount : Obligations.AcceptingCycleDoesNotCount := by
  intro s ts hs hl ht
  constructor
  · intro hh hidle
    have hstep := stepRunsDecodedInstruction.1 s _ {} ts scriptSend hs hl ht rfl hh (exec_scriptSend _)
    obtain ⟨hlink, hstate, hcyc, hcs⟩ := finishMuCycle_of_tx_idle (i := {})
      (m0 := (beginMuCycle { s with turns := ts, host := hs }).mu)
      (s := respondWrite (sendFrame (beginMuCycle { s with turns := ts, host := hs }))) hidle
    refine ⟨_, hstep, ?_⟩
    rw [hlink, hstate, hcyc, hcs]
    simp [muSend_accepted, hidle]
  · intro hh hready hproc hp
    have hstep := stepRunsDecodedInstruction.1 s _ {} ts scriptProcess hs hl ht rfl hh (exec_scriptProcess _)
    obtain ⟨hbusy, hcnt, hrdy, hpeak, hrms, hfreq⟩ := finishMuCycle_of_proc_idle (i := {})
      (m0 := (beginMuCycle { s with turns := ts, host := hs }).mu)
      (s := respondWrite ((beginMuCycle { s with turns := ts, host := hs }).onMu (muProcess s.cfg))) hproc (by simpa using hp)
    refine ⟨_, hstep, ?_⟩
    rw [beginMuCycle_cfg, hbusy, hcnt, hrdy, hpeak, hrms, hfreq]
    simp [muProcess_accepted, hready, hproc]

/-! ## The two units beside each other -/

/-- The machine with another SU and with older events before its own on the link. -/
def State.beside (s : State) (u : SU) (l : List LinkEvent) : State := { s with su := u, link := l ++ s.link }

/-- Every state is one with an empty link, beside its SU and its link. -/
theorem beside_of_empty_link (s : State) (u : SU) (l : List LinkEvent) :
    State.beside { s with link := [] } u l = { s with su := u, link := l } := by
  rw [State.beside, List.append_nil]

/-! No part of the MU's cycle looks at the SU or at the link (R257, R343). -/

section
variable (s : State) (u : SU) (l : List LinkEvent)

theorem exec_decodeBus_beside {x : BusWord} {s1 : State} (h : exec (decodeBus x) s = .next s1) :
    exec (decodeBus x) (s.beside u l) = .next (s1.beside u l) := by
  have hb := decodeBus_onBus x
  cases hd : decodeBus x with
  | send hi =>
    rw [hd] at h
    rw [← Host.Outcome.next.inj h, exec_send]
    simp only [State.beside, sendFrame, respondWrite, State.onMu, List.append_assoc]
  | frameMeas | frameBad => rw [hd] at hb; exact hb.elim
  | _ => rw [hd] at h; cases h; rfl

theorem adcPhase_beside (stray : Option Reading) : adcPhase stray (s.beside u l) = (adcPhase stray s).beside u l := by
  simp only [adcPhase, State.beside]
  split <;> rfl

theorem startConverter_beside : startConverter (s.beside u l) = (startConverter s).beside u l := by
  cases hd : s.adcDraws with
  | nil => rw [startConverter_free hd, startConverter_free (s := s.beside u l) hd]; rfl
  | cons a ds => rw [startConverter_listed hd, startConverter_listed (s := s.beside u l) hd]; rfl

theorem timerPhase_beside : timerPhase (s.beside u l) = (timerPhase s).beside u l := by
  cases hs : (timerCount s.cfg s.mu).adcStart with
  | true =>
    rw [timerPhase_started s hs, timerPhase_started (s.beside u l) hs]
    exact startConverter_beside { s with mu := timerCount s.cfg s.mu } u l
  | false => rw [timerPhase_not_started s hs, timerPhase_not_started (s.beside u l) hs]; rfl

theorem procPhase_beside (b : Bool) : procPhase b (s.beside u l) = (procPhase b s).beside u l := by
  cases b <;> rfl

theorem txPhase_beside (b : Bool) : txPhase b (s.beside u l) = (txPhase b s).beside u l := by
  cases b with
  | false => rfl
  | true => simp only [txPhase, State.beside, if_true, List.append_assoc]

theorem finishMuCycle_beside (i : MuIn) (m0 : MU) : finishMuCycle i m0 (s.beside u l) = (finishMuCycle i m0 s).beside u l := by
  simp only [finishMuCycle, adcPhase_beside, timerPhase_beside, procPhase_beside, txPhase_beside]

theorem muResetCycle_beside (op : HostOp) : muResetCycle op (s.beside u l) = (muResetCycle op s).beside u l := by
  simp only [muResetCycle, State.beside, List.append_assoc]

theorem retireHost_beside (op : HostOp) : retireHost op (s.beside u l) = (retireHost op s).beside u l := by
  cases op with
  | wait a mask v =>
    cases hw : waitMet mask v s.mu <;> simp only [retireHost, State.beside, hw] <;> rfl
  | _ => rfl

theorem muAccessCycle_beside (i : MuIn) (op : HostOp) {t : State} (h : muAccessCycle i op s = .next t) :
    muAccessCycle i op (s.beside u l) = .next (t.beside u l) := by
  unfold muAccessCycle at h ⊢
  cases ho : opWord op with
  | none =>
    rw [ho] at h
    rw [← Host.Outcome.next.inj h]
    exact congrArg _ (finishMuCycle_beside s u l i s.mu)
  | some x =>
    rw [ho] at h
    obtain ⟨s1, he, hf⟩ := andThen_eq_next.mp h
    rw [← Host.Outcome.next.inj hf]
    exact andThen_eq_next.mpr ⟨_, exec_decodeBus_beside s u l he, congrArg _ (finishMuCycle_beside s1 u l i s.mu)⟩

theorem muCycle_beside (i : MuIn) {t : State} (h : muCycle i s = .next t) :
    muCycle i (s.beside u l) = .next (t.beside u l) := by
  unfold muCycle at h ⊢
  obtain ⟨s1, h1, h2⟩ := andThen_eq_next.mp h
  rw [← Host.Outcome.next.inj h2]
  refine andThen_eq_next.mpr ⟨s1.beside u l, ?_, congrArg _ (retireHost_beside s1 u l _)⟩
  cases hr : i.rst with
  | true =>
    rw [hr, if_pos rfl] at h1
    rw [if_pos rfl, ← Host.Outcome.next.inj h1]
    exact congrArg _ (muResetCycle_beside (beginMuCycle (popHost s)) u l (nextHostOp s))
  | false =>
    rw [hr, if_neg (by decide)] at h1
    rw [if_neg (by decide)]
    exact muAccessCycle_beside (beginMuCycle (popHost s)) u l i (nextHostOp s) h1

theorem muPart_beside (i : Option MuIn) {t : State} (h : muPart i s = .next t) :
    muPart i (s.beside u l) = .next (t.beside u l) := by
  cases i with
  | none => rw [← Host.Outcome.next.inj h]; rfl
  | some i => exact muCycle_beside s u l i h

end

/-- The MU's part of a turn on an empty link says what it does on any link and beside any SU. -/
theorem muPart_alone (i : Option MuIn) (s : State) :
    ∃ t0, muPart i { s with link := [] } = .next t0
      ∧ ∀ (u : SU) (l : List LinkEvent), muPart i { s with su := u, link := l } = .next (t0.beside u l) := by
  have htotal : ∃ t0, muPart i { s with link := [] } = .next t0 := by
    cases i with
    | none => exact ⟨_, rfl⟩
    | some i => exact muCycle_next i _
  obtain ⟨t0, h⟩ := htotal
  exact ⟨t0, h, fun u l => beside_of_empty_link s u l ▸ muPart_beside { s with link := [] } u l i h⟩

/-- Settles O56: the MU's part of a turn is the one it has alone, and the SU's part finds what that leaves on the link. -/
theorem unitsShareNothingButTheLink : Obligations.UnitsShareNothingButTheLink := by
  constructor
  · intro s t t' u l h h'
    obtain ⟨t0, -, hall⟩ := muPart_alone (nextTurn s).mu (popTurn s)
    obtain ⟨_, s1, hmu, hsu⟩ := step_cases h
    obtain ⟨_, s1', hmu', hsu'⟩ := step_cases h'
    obtain rfl : t0.beside s.su s.link = s1 := Host.Outcome.next.inj ((hall s.su s.link).symm.trans hmu)
    obtain rfl : t0.beside u l = s1' := Host.Outcome.next.inj ((hall u l).symm.trans hmu')
    obtain ⟨-, hm, ha, hh, -, hd, hn⟩ := suPart_frame hsu
    obtain ⟨-, hm', ha', hh', -, hd', hn'⟩ := suPart_frame hsu'
    exact ⟨hm'.trans hm.symm, ha'.trans ha.symm, hh'.trans hh.symm, hd'.trans hd.symm, hn'.trans hn.symm⟩
  · intro s t h
    obtain ⟨t0, halone, hall⟩ := muPart_alone (nextTurn s).mu (popTurn s)
    obtain ⟨hl, s1, hmu, hsu⟩ := step_cases h
    obtain rfl : t0.beside s.su s.link = s1 := Host.Outcome.next.inj ((hall s.su s.link).symm.trans hmu)
    obtain ⟨-, hm, ha, hh, -, -, -⟩ := suPart_frame hsu
    have hcfg : t0.cfg = s.cfg := (muPart_frame hmu).1
    have hsilent : (nextTurn s).mu = none → t0 = { popTurn s with link := [] } := fun hn => by
      rw [hn] at halone; exact (Host.Outcome.next.inj halone).symm
    refine ⟨fun hn => ?_, t0.link, fun hn => by rw [hsilent hn], ⟨t0.beside s.su s.link, ?_, rfl⟩, ?_⟩
    · rw [hm, ha, hh, hsilent hn]; exact ⟨rfl, rfl, rfl⟩
    · exact (step_of_legal (s := { s with turns := { mu := (nextTurn s).mu, su := none } :: s.turns.tail }) hl).trans
        (andThen_eq_next.mpr ⟨_, hmu, rfl⟩)
    · rw [← hcfg]; exact suPart_link hsu

end Sys2Proof.Machine
end

section
/-! The Link Decoder (44_decoder.md): single events (R282, R287), what a collection amounts to at its CS_RISE (R289 to R294), the frames
(R291 to R297), short and long collections (R286, R290, R295), and the size of `rx_buf` (R288). -/

namespace Sys2Proof.Machine

/-! ## Single events -/

theorem suBit_idle {c : Config} {b : Bool} {u : SU} (h : u.rxState = .idle) : suBit c b u = u := by
  simp only [suBit, h]

theorem suCsRise_idle {u : SU} (h : u.rxState = .idle) : suCsRise u = u := by
  simp only [suCsRise, h]

/-- Settles O23: outside a chip-select window an event only ends `disp_valid`. -/
theorem idleReceiverIgnoresStrayEvents : Obligations.IdleReceiverIgnoresStrayEvents := fun _ _ u h =>
  ⟨suBit_idle (u := suCycleStart u) h, suCsRise_idle (u := suCycleStart u) h⟩

/-- Settles O24: CS_FALL sets the receiver's fields, and `disp_valid` ends with the cycle's start. -/
theorem csFallRestartsCollection : Obligations.CsFallRestartsCollection := fun _ _ => rfl

/-! ## Bits and bytes -/

/-- BYTE_DONE stores every byte but the second, the reserved one, while there is room, and touches three fields (R284, R286). -/
theorem byteDone_eq (c : Config) (v : Byte) (u : SU) :
    byteDone c v u = { u with
      rxWcnt := min (u.rxWcnt + 1) 255
      rxBuf := if u.rxWcnt ≠ 1 ∧ u.rxLen < c.rxMax then u.rxBuf.set u.rxLen v else u.rxBuf
      rxLen := if u.rxWcnt ≠ 1 ∧ u.rxLen < c.rxMax then u.rxLen + 1 else u.rxLen } := by
  by_cases hw : u.rxWcnt = 1
  · simp [byteDone, hw]
  · by_cases hroom : u.rxLen < c.rxMax <;> simp [byteDone, hw, hroom]

theorem byteDone_stored {c : Config} {v : Byte} {u : SU} (h : u.rxWcnt ≠ 1 ∧ u.rxLen < c.rxMax) :
    byteDone c v u
      = { u with rxWcnt := min (u.rxWcnt + 1) 255, rxBuf := u.rxBuf.set u.rxLen v, rxLen := u.rxLen + 1 } := by
  rw [byteDone_eq, if_pos h, if_pos h]

theorem byteDone_counted {c : Config} {v : Byte} {u : SU} (h : ¬(u.rxWcnt ≠ 1 ∧ u.rxLen < c.rxMax)) :
    byteDone c v u = { u with rxWcnt := min (u.rxWcnt + 1) 255 } := by
  rw [byteDone_eq, if_neg h, if_neg h]

/-- A bit within a byte (R283). -/
theorem suBit_within {c : Config} {b : Bool} {u : SU} (h : u.rxState = .collecting) (h8 : u.rxBitcnt + 1 ≠ 8) :
    suBit c b u = { u with rxShift := shiftIn u.rxShift b, rxBitcnt := u.rxBitcnt + 1 } := by
  simp only [suBit, h, h8, if_false]

/-- The shift register emptied after a byte (R283). -/
def emptyShift (u : SU) : SU := { u with rxBitcnt := 0, rxShift := 0#8 }

/-- BYTE_DONE does not look at the shift register and leaves it alone. -/
theorem emptyShift_byteDone (c : Config) (v : Byte) (u : SU) : emptyShift (byteDone c v u) = byteDone c v (emptyShift u) := by
  rw [byteDone_eq, byteDone_eq]
  rfl

/-- The bit that completes a byte (R283, R284). -/
theorem suBit_last {c : Config} {b : Bool} {u : SU} (h : u.rxState = .collecting) (h8 : u.rxBitcnt + 1 = 8) :
    suBit c b u = emptyShift (byteDone c (shiftIn u.rxShift b) u) := by
  simp only [suBit, h, h8, if_true, emptyShift, byteDone_eq]

/-- What a bit can do: nothing, lengthen the byte, or complete one that is stored or only counted. -/
theorem suBit_cases (c : Config) (b : Bool) (u : SU) :
    suBit c b u = u
    ∨ suBit c b u = { u with rxShift := shiftIn u.rxShift b, rxBitcnt := u.rxBitcnt + 1 }
    ∨ (u.rxBitcnt + 1 = 8 ∧ u.rxWcnt ≠ 1 ∧ suBit c b u = { u with
        rxBitcnt := 0, rxShift := 0#8, rxWcnt := min (u.rxWcnt + 1) 255,
        rxBuf := u.rxBuf.set u.rxLen (shiftIn u.rxShift b), rxLen := u.rxLen + 1 })
    ∨ (u.rxBitcnt + 1 = 8 ∧ suBit c b u = { u with rxBitcnt := 0, rxShift := 0#8, rxWcnt := min (u.rxWcnt + 1) 255 }) := by
  obtain hs | hs : u.rxState = .idle ∨ u.rxState = .collecting := by cases u.rxState <;> decide
  · exact .inl (suBit_idle hs)
  · by_cases h8 : u.rxBitcnt + 1 = 8
    · by_cases hstore : u.rxWcnt ≠ 1 ∧ u.rxLen < c.rxMax
      · exact .inr (.inr (.inl ⟨h8, hstore.1, by rw [suBit_last hs h8, byteDone_stored hstore]; rfl⟩))
      · exact .inr (.inr (.inr ⟨h8, by rw [suBit_last hs h8, byteDone_counted hstore]; rfl⟩))
    · exact .inr (.inl (suBit_within hs h8))

/-! ## A collection -/

/-- The SU once it has observed CS_FALL and these bits. -/
def collect (c : Config) (bits : List Bool) (u : SU) : SU := suEvents c (bits.map .bit) (suEvent c u .csFall)

theorem collect_append (c : Config) (bits extra : List Bool) (u : SU) :
    collect c (bits ++ extra) u = suEvents c (extra.map .bit) (collect c bits u) := by
  rw [collect, List.map_append, suEvents_append]; rfl

/-- Bits neither end a collection nor touch the dispatched values. -/
theorem collect_quiet (c : Config) (bits : List Bool) (u : SU) :
    (collect c bits u).rxState = .collecting ∧ (collect c bits u).dispPeak = u.dispPeak
      ∧ (collect c bits u).dispRms = u.dispRms ∧ (collect c bits u).dispFreq = u.dispFreq := by
  obtain ⟨hpeak, hrms, hfreq, hstate, -⟩ := suEvents_bits_quiet c bits (suEvent c u .csFall)
  exact ⟨hstate, hpeak, hrms, hfreq⟩

/-- The triple that the collected bytes stand for (R292). -/
def collectedTriple (u : SU) : Triple := { peak := halfAt u 1, rms := halfAt u 3, freq := halfAt u 5 }

/-- A CS_RISE that finds the collection valid dispatches its triple (R289, R292, R293). -/
theorem suEvent_csRise_valid {c : Config} {u : SU} (h : u.rxState = .collecting) (hv : frameValid u = true) :
    suEvent c u .csRise
      = dispatch (collectedTriple u).peak (collectedTriple u).rms (collectedTriple u).freq (closeCollection u) := by
  have hv' : frameValid (suCycleStart u) = true := hv
  simp only [suEvent, suCsRise, suCycleStart_rxState, h, hv', if_true]
  rfl

/-- A CS_RISE that finds it invalid only closes it (R294). -/
theorem suEvent_csRise_invalid {c : Config} {u : SU} (h : u.rxState = .collecting) (hv : frameValid u = false) :
    suEvent c u .csRise = closeCollection (suCycleStart u) := by
  have hv' : frameValid (suCycleStart u) = false := hv
  simp [suEvent, suCsRise, h, hv']

/-- What a CS_RISE dispatches out of a collection. -/
theorem dispatched_csRise (c : Config) {u : SU} (h : u.rxState = .collecting) :
    dispatched (suEvent c u .csRise) = if frameValid u then [collectedTriple u] else [] := by
  cases hv : frameValid u
  · simp [suEvent_csRise_invalid h hv, dispatched]
  · simp [suEvent_csRise_valid h hv, dispatched]

theorem suEvents_collection (c : Config) (bits : List Bool) (u : SU) :
    suEvents c (.csFall :: (bits.map .bit ++ [.csRise])) u = suEvent c (collect c bits u) .csRise := by
  rw [suEvents_cons, suEvents_append]; rfl

theorem dispatches_open_collection (c : Config) (bits : List Bool) (u : SU) : dispatches c (.csFall :: bits.map .bit) u = [] := by
  obtain ⟨-, -, -, -, hbits⟩ := suEvents_bits_quiet c bits (suEvent c u .csFall)
  rw [dispatches, hbits]; rfl

/-- A collection dispatches at its CS_RISE or not at all, as the bytes collected then decide. -/
theorem dispatches_collection (c : Config) (bits : List Bool) (u : SU) :
    dispatches c (.csFall :: (bits.map .bit ++ [.csRise])) u
      = if frameValid (collect c bits u) then [collectedTriple (collect c bits u)] else [] := by
  obtain ⟨hstate, -⟩ := collect_quiet c bits u
  rw [← List.cons_append, dispatches_append, dispatches_open_collection, ← dispatched_csRise c hstate]
  exact List.append_nil _

theorem payload_congr {u u' : SU} {k : Nat} (hk : k < 7) (h : u.rxBuf.take 7 = u'.rxBuf.take 7) : payload u k = payload u' k := by
  have hget : (u.rxBuf.take 7)[k]? = (u'.rxBuf.take 7)[k]? := by rw [h]
  rw [List.getElem?_take_of_lt hk, List.getElem?_take_of_lt hk] at hget
  rw [payload, payload, List.getD_eq_getElem?_getD, hget, List.getD_eq_getElem?_getD]

/-- The two checks look at the first seven stored bytes and at whether there are seven (R290, R291). -/
theorem frameValid_congr {u u' : SU} (hlen : 7 ≤ u.rxLen ↔ 7 ≤ u'.rxLen) (h : u.rxBuf.take 7 = u'.rxBuf.take 7) :
    frameValid u = frameValid u' := by
  simp only [frameValid, hlen, payload_congr (show 0 < 7 by decide) h]

theorem collectedTriple_congr {u u' : SU} (h : u.rxBuf.take 7 = u'.rxBuf.take 7) : collectedTriple u = collectedTriple u' := by
  have hhalf : ∀ k < 6, halfAt u k = halfAt u' k := fun k hk => by
    rw [halfAt, halfAt, payload_congr (by omega) h, payload_congr (by omega) h]
  rw [collectedTriple, collectedTriple, hhalf 1 (by decide), hhalf 3 (by decide), hhalf 5 (by decide)]

/-! ## Short collections -/

/-- At least 8 bits of the open collection stand behind every byte stored, and 8 behind the reserved one; `n` bounds their number. -/
structure BitsBehind (n : Nat) (u : SU) : Prop where
  noReserved : u.rxWcnt < 2 → u.rxLen ≤ u.rxWcnt ∧ 8 * u.rxLen + u.rxBitcnt ≤ n
  reserved : 2 ≤ u.rxWcnt → 8 * (u.rxLen + 1) + u.rxBitcnt ≤ n

theorem bitsBehind_csFall (c : Config) (u : SU) : BitsBehind 0 (suEvent c u .csFall) :=
  ⟨fun _ => ⟨le_rfl, le_rfl⟩, fun h => absurd h (by decide : ¬2 ≤ 0)⟩

theorem bitsBehind_bit {c : Config} {b : Bool} {n : Nat} {u : SU} (h : BitsBehind n u) : BitsBehind (n + 1) (suBit c b u) := by
  obtain ⟨hno, hres⟩ := h
  obtain e | e | ⟨h8, hw, e⟩ | ⟨h8, e⟩ := suBit_cases c b u
  · rw [e]; exact ⟨by omega, by omega⟩
  · rw [e]; exact ⟨by simp only; omega, by simp only; omega⟩
  · rw [e]; exact ⟨by simp only; omega, by simp only; omega⟩
  · rw [e]; exact ⟨by simp only; omega, by simp only; omega⟩

theorem bitsBehind_bits {c : Config} (bits : List Bool) {n : Nat} {u : SU} (h : BitsBehind n u) :
    BitsBehind (n + bits.length) (suEvents c (bits.map .bit) u) := by
  induction bits generalizing n u with
  | nil => exact h
  | cons b bits ih =>
    have h1 : BitsBehind (n + 1) (suEvent c u (.bit b)) := bitsBehind_bit (u := suCycleStart u) ⟨h.noReserved, h.reserved⟩
    rw [List.length_cons, Nat.add_comm bits.length, ← Nat.add_assoc]
    exact ih h1

theorem rxLen_lt_of_bitsBehind {n : Nat} {u : SU} (h : BitsBehind n u) (hn : n < 64) : u.rxLen < 7 := by
  have hno := h.noReserved
  have hres := h.reserved
  omega

/-- The length check fails for fewer than 8 wire bytes (R290). -/
theorem frameValid_collect_short (c : Config) {bits : List Bool} (h : bits.length < 64) (u : SU) :
    frameValid (collect c bits u) = false := by
  have hlen : (collect c bits u).rxLen < 7 :=
    rxLen_lt_of_bitsBehind (bitsBehind_bits bits (bitsBehind_csFall c u)) (by omega)
  simp [frameValid, Nat.not_le.mpr hlen]

/-- Settles O20: fewer than 64 bits fail the length check. -/
theorem shortCollectionIsDropped : Obligations.ShortCollectionIsDropped := by
  intro c bits u hbits es
  have hv := frameValid_collect_short c hbits u
  obtain ⟨hstate, hpeak, hrms, hfreq⟩ := collect_quiet c bits u
  have hend : suEvents c es u = closeCollection (suCycleStart (collect c bits u)) :=
    (suEvents_collection c bits u).trans (suEvent_csRise_invalid hstate hv)
  rw [hend]
  exact ⟨by rw [dispatches_collection, hv]; rfl, hpeak, hrms, hfreq⟩

/-! ## The bytes of a frame -/

/-- A collecting receiver between two bytes. -/
structure BetweenBytes (u : SU) : Prop where
  collecting : u.rxState = .collecting
  shiftEmpty : emptyShift u = u
  quiet : suCycleStart u = u

theorem betweenBytes_csFall (c : Config) (u : SU) : BetweenBytes (suEvent c u .csFall) := ⟨rfl, rfl, rfl⟩

theorem suCycleStart_byteDone (c : Config) (v : Byte) (u : SU) : suCycleStart (byteDone c v u) = byteDone c v (suCycleStart u) := by
  rw [byteDone_eq, byteDone_eq]
  rfl

theorem betweenBytes_byteDone {c : Config} {v : Byte} {u : SU} (h : BetweenBytes u) : BetweenBytes (byteDone c v u) :=
  ⟨by rw [byteDone_rxState, h.collecting], by rw [emptyShift_byteDone, h.shiftEmpty], by rw [suCycleStart_byteDone, h.quiet]⟩

theorem suEvents_byte_between {c : Config} {v : Byte} {u : SU} (h : BetweenBytes u) :
    suEvents c ((byteBits v).map .bit) u = byteDone c v u := by
  have hb : u.rxBitcnt = 0 := (congrArg SU.rxBitcnt h.shiftEmpty).symm
  have hv : u.rxShift = 0#8 := (congrArg SU.rxShift h.shiftEmpty).symm
  calc suEvents c ((byteBits v).map .bit) u = emptyShift (byteDone c v (suCycleStart u)) := suEvents_byte c v u h.collecting hb hv
    _ = byteDone c v u := by rw [h.quiet, emptyShift_byteDone, h.shiftEmpty]

/-- Whole bytes are taken one BYTE_DONE after the other. -/
theorem suEvents_bytes {c : Config} (vs : List Byte) {u : SU} (h : BetweenBytes u) :
    suEvents c ((vs.flatMap byteBits).map .bit) u = vs.foldl (fun u v => byteDone c v u) u := by
  induction vs generalizing u with
  | nil => rfl
  | cons v vs ih =>
    rw [List.flatMap_cons, List.map_append, suEvents_append, suEvents_byte_between h]
    exact ih (betweenBytes_byteDone h)

/-- The bytes of a frame after the first two: the three values, high byte first (R110). -/
def valueBytes (w : FrameWord) : List Byte :=
  [w.extractLsb' 40 8, w.extractLsb' 32 8, w.extractLsb' 24 8, w.extractLsb' 16 8, w.extractLsb' 8 8, w.extractLsb' 0 8]

theorem frameBits_flatMap (w : FrameWord) :
    frameBits w = (w.extractLsb' 56 8 :: w.extractLsb' 48 8 :: valueBytes w).flatMap byteBits := by
  simp [frameBits_bytes, valueBytes]

/-- The stored bytes grow by the byte just written behind them. -/
theorem take_set_succ {α : Type} {l : List α} {i : Nat} (v : α) (h : i < l.length) : (l.set i v).take (i + 1) = l.take i ++ [v] := by
  rw [List.take_succ_eq_append_getElem (by simpa using h), List.getElem_set_self, List.take_set_of_le le_rfl]

/-- The bytes after the reserved one are stored one behind the other while there is room (R284). -/
theorem foldl_byteDone_stored {c : Config} (vs : List Byte) {u : SU} (hw : 2 ≤ u.rxWcnt) (hw' : u.rxWcnt + vs.length ≤ 255)
    (hroom : u.rxLen + vs.length ≤ c.rxMax) (hu : u.rxBuf.length = c.rxMax) :
    vs.foldl (fun u v => byteDone c v u) u
      = { u with
          rxWcnt := u.rxWcnt + vs.length
          rxLen := u.rxLen + vs.length
          rxBuf := u.rxBuf.take u.rxLen ++ vs ++ u.rxBuf.drop (u.rxLen + vs.length) } := by
  induction vs generalizing u with
  | nil => simp
  | cons v vs ih =>
    rw [List.length_cons] at hw' hroom
    have hmin : min (u.rxWcnt + 1) 255 = u.rxWcnt + 1 := by omega
    have hset : u.rxLen < u.rxBuf.length := by omega
    have hlen : u.rxLen + 1 + vs.length = u.rxLen + (vs.length + 1) := by omega
    have hcnt : u.rxWcnt + 1 + vs.length = u.rxWcnt + (vs.length + 1) := by omega
    rw [List.foldl_cons, byteDone_stored (by omega), hmin,
      ih (by simp only; omega) (by simp only; omega) (by simp only; omega) (by simpa using hu)]
    simp only [hlen, hcnt, take_set_succ v hset, List.drop_set_of_lt (show u.rxLen < u.rxLen + (vs.length + 1) by omega),
      List.append_assoc, List.singleton_append, List.length_cons]

/-- The SU with the first two wire bytes collected. -/
def headerCollected (cmd : Byte) (u : SU) : SU :=
  { u with
    rxState := .collecting, rxBitcnt := 0, rxShift := 0#8, rxWcnt := 2, rxLen := 1, dispValid := false
    rxBuf := u.rxBuf.set 0 cmd }

theorem byteDone_header {c : Config} (cmd rsvd : Byte) (u : SU) (hc : 0 < c.rxMax) :
    byteDone c rsvd (byteDone c cmd (suEvent c u .csFall)) = headerCollected cmd u := by
  have hstore : (suEvent c u .csFall).rxWcnt ≠ 1 ∧ (suEvent c u .csFall).rxLen < c.rxMax := ⟨Nat.zero_ne_one, hc⟩
  rw [byteDone_stored hstore, byteDone_counted (fun h => h.1 rfl)]
  rfl

/-- The SU with the 64 bits of a frame collected: `rx_buf` holds the first byte and those of the values, not the reserved one. -/
def frameCollected (w : FrameWord) (u : SU) : SU :=
  { u with
    rxState := .collecting, rxBitcnt := 0, rxShift := 0#8, rxWcnt := 8, rxLen := 7, dispValid := false
    rxBuf := w.extractLsb' 56 8 :: valueBytes w ++ u.rxBuf.drop 7 }

theorem collect_frameBits {c : Config} (w : FrameWord) {u : SU} (hc : 7 ≤ c.rxMax) (hu : u.rxBuf.length = c.rxMax) :
    collect c (frameBits w) u = frameCollected w u := by
  have hfirst : (u.rxBuf.set 0 (w.extractLsb' 56 8)).take 1 = [w.extractLsb' 56 8] := take_set_succ _ (by omega)
  have hrest : (u.rxBuf.set 0 (w.extractLsb' 56 8)).drop 7 = u.rxBuf.drop 7 := List.drop_set_of_lt (by decide)
  have hvalues := foldl_byteDone_stored (c := c) (u := headerCollected (w.extractLsb' 56 8) u) (valueBytes w) le_rfl
    (by decide : 2 + 6 ≤ 255) hc (List.length_set.trans hu)
  rw [collect, frameBits_flatMap, suEvents_bytes _ (betweenBytes_csFall c u), List.foldl_cons, List.foldl_cons,
    byteDone_header _ _ u (by omega), hvalues]
  simp [headerCollected, frameCollected, valueBytes, hfirst, hrest]

theorem frameValid_frameCollected (w : FrameWord) (u : SU) : frameValid (frameCollected w u) = decide (w.extractLsb' 56 8 = 0x02#8) := rfl

/-- Two bytes side by side are the value they come from (R110, R292). -/
theorem collectedTriple_frameCollected (w : FrameWord) (u : SU) :
    collectedTriple (frameCollected w u)
      = { peak := w.extractLsb' 32 16, rms := w.extractLsb' 16 16, freq := w.extractLsb' 0 16 } := by
  have hpeak : w.extractLsb' 40 8 ++ w.extractLsb' 32 8 = w.extractLsb' 32 16 :=
    BitVec.extractLsb'_append_extractLsb'_eq_extractLsb' rfl
  have hrms : w.extractLsb' 24 8 ++ w.extractLsb' 16 8 = w.extractLsb' 16 16 :=
    BitVec.extractLsb'_append_extractLsb'_eq_extractLsb' rfl
  have hfreq : w.extractLsb' 8 8 ++ w.extractLsb' 0 8 = w.extractLsb' 0 16 :=
    BitVec.extractLsb'_append_extractLsb'_eq_extractLsb' rfl
  rw [← hpeak, ← hrms, ← hfreq]
  rfl

/-! ## Whole frames -/

/-- What the 66 events of a frame dispatch is decided by its first byte (R291, R292). -/
theorem dispatches_frame {c : Config} (cmd rsvd : Byte) (p r f : Half) {u : SU} (hc : 7 ≤ c.rxMax) (hu : u.rxBuf.length = c.rxMax) :
    dispatches c (frameEvents (frameWord cmd rsvd p r f)) u = if cmd = 0x02#8 then [{ peak := p, rms := r, freq := f }] else [] := by
  rw [frameEvents, dispatches_collection, collect_frameBits _ hc hu, frameValid_frameCollected, collectedTriple_frameCollected,
    frameWord_cmd, frameWord_peak, frameWord_rms, frameWord_freq]
  simp only [decide_eq_true_eq]

theorem suEvents_frame {c : Config} (w : FrameWord) {u : SU} (hc : 7 ≤ c.rxMax) (hu : u.rxBuf.length = c.rxMax) :
    suEvents c (frameEvents w) u = suEvent c (frameCollected w u) .csRise := by
  rw [frameEvents, suEvents_collection, collect_frameBits w hc hu]

/-- Settles O18: the collected frame passes both checks, and its values are the triple. -/
theorem frameMeasDispatchesItsTriple : Obligations.FrameMeasDispatchesItsTriple := by
  intro rsvd p r f s hc hu
  refine ⟨_, exec_frameMeas rsvd p r f s, ?_⟩
  have hv : frameValid (frameCollected (frameWord 0x02#8 rsvd p r f) s.su) = true := by
    rw [frameValid_frameCollected, frameWord_cmd]; rfl
  have ht := collectedTriple_frameCollected (frameWord 0x02#8 rsvd p r f) s.su
  rw [frameWord_peak, frameWord_rms, frameWord_freq] at ht
  rw [suEvents_frame _ hc hu, suEvent_csRise_valid rfl hv, ht]
  exact ⟨rfl, rfl, rfl, rfl, rfl, rfl, rfl, rfl, rfl, dispatches_frame 0x02#8 rsvd p r f hc hu⟩

/-- Settles O19: the sentinel check fails. -/
theorem frameBadIsDroppedSilently : Obligations.FrameBadIsDroppedSilently := by
  intro cmd rsvd p r f s hcmd hc hu
  refine ⟨_, exec_frameBad cmd rsvd p r f s, ?_⟩
  have hv : frameValid (frameCollected (frameWord cmd rsvd p r f) s.su) = false := by
    rw [frameValid_frameCollected, frameWord_cmd]; exact decide_eq_false hcmd
  rw [suEvents_frame _ hc hu, suEvent_csRise_invalid rfl hv]
  exact ⟨rfl, rfl, rfl, rfl, rfl, rfl, rfl, (dispatches_frame cmd rsvd p r f hc hu).trans (if_neg hcmd)⟩

/-- Settles O26: the events of a SEND are those of its frame, and up to the last the collection is open. -/
theorem sentTripleIsDispatchedOnce : Obligations.SentTripleIsDispatchedOnce := by
  intro c m u hlegal hidle hu es
  have hc : 7 ≤ c.rxMax := (legal_bounds hlegal).rxMax
  obtain ⟨hevents, -⟩ := sendProducesItsFrameOnTheLink c m (legal_bounds hlegal).sclk hidle
  have hes : es = frameEvents (frameOf m.resPeak m.resRms m.resFreq) := by
    rw [frameEvents, frameOf_eq, frameBits, List.map_map]; exact hevents
  refine ⟨?_, ?_, ?_, ?_, fun cmd hcmd => ?_⟩
  · rw [hes]; exact dispatches_frame 0x02#8 0x00#8 _ _ _ hc hu
  · rw [hes, frameEvents, ← List.cons_append, List.dropLast_concat]; exact dispatches_open_collection c _ u
  · rw [hes, frameEvents, ← List.cons_append]; exact List.getLast?_concat
  · rw [hes]; simp [frameEvents, frameBits]
  · exact (dispatches_frame cmd 0x00#8 _ _ _ hc hu).trans (if_neg hcmd)

/-! ## Bits after a frame -/

/-- With seven bytes stored a bit leaves those seven (R286). -/
theorem suBit_payload_full {c : Config} (b : Bool) {u : SU} (h : 7 ≤ u.rxLen) :
    7 ≤ (suBit c b u).rxLen ∧ (suBit c b u).rxBuf.take 7 = u.rxBuf.take 7 := by
  obtain e | e | ⟨-, -, e⟩ | ⟨-, e⟩ := suBit_cases c b u
  · rw [e]; exact ⟨h, rfl⟩
  · rw [e]; exact ⟨h, rfl⟩
  · rw [e]; exact ⟨h.trans (Nat.le_succ _), List.take_set_of_le h⟩
  · rw [e]; exact ⟨h, rfl⟩

theorem suEvents_bits_payload_full {c : Config} (bits : List Bool) {u : SU} (h : 7 ≤ u.rxLen) :
    7 ≤ (suEvents c (bits.map .bit) u).rxLen ∧ (suEvents c (bits.map .bit) u).rxBuf.take 7 = u.rxBuf.take 7 := by
  induction bits generalizing u with
  | nil => exact ⟨h, rfl⟩
  | cons b bits ih =>
    obtain ⟨hlen, hbuf⟩ := suBit_payload_full (c := c) b (u := suCycleStart u) h
    obtain ⟨hlen', hbuf'⟩ := ih hlen
    exact ⟨hlen', hbuf'.trans hbuf⟩

/-- Settles O21: the seven bytes of the frame stay as they are, and they decide. -/
theorem extraBitsDoNotChangeTheDispatch : Obligations.ExtraBitsDoNotChangeTheDispatch := by
  intro c w extra u hc hu
  have hlen : 7 ≤ (collect c (frameBits w) u).rxLen := by rw [collect_frameBits w hc hu]; exact le_rfl
  obtain ⟨hlen', hbuf⟩ := suEvents_bits_payload_full (c := c) extra hlen
  rw [frameEvents, dispatches_collection, dispatches_collection, collect_append,
    frameValid_congr (iff_of_true hlen' hlen) hbuf, collectedTriple_congr hbuf]

/-! ## The size of the buffer -/

/-- A receiver cut down to the seven bytes that can be dispatched. -/
def trim (u : SU) : SU := { u with rxBuf := u.rxBuf.take 7, rxLen := min u.rxLen 7 }

/-- A configuration with the least `RX_MAX` of R7; no other parameter concerns the SU. -/
def leastRx : Config := { cfgP with rxMax := 7 }

theorem trim_byteDone {c : Config} (hc : 7 ≤ c.rxMax) (v : Byte) (u : SU) : trim (byteDone c v u) = byteDone leastRx v (trim u) := by
  by_cases hstore : u.rxWcnt ≠ 1 ∧ u.rxLen < c.rxMax
  · rw [byteDone_stored hstore]
    by_cases h7 : u.rxLen < 7
    · have hroom : min u.rxLen 7 < leastRx.rxMax := lt_of_le_of_lt (min_le_left _ _) h7
      have hmin : min (u.rxLen + 1) 7 = u.rxLen + 1 := by omega
      rw [byteDone_stored (u := trim u) ⟨hstore.1, hroom⟩]
      simp only [trim, List.take_set, hmin, min_eq_left h7.le]
    · have hfull : ¬min u.rxLen 7 < leastRx.rxMax := fun h => h7 ((min_lt_iff.mp h).resolve_right (lt_irrefl 7))
      have hmin : min (u.rxLen + 1) 7 = min u.rxLen 7 := by omega
      rw [byteDone_counted (u := trim u) (fun h => hfull h.2)]
      simp only [trim, List.take_set_of_le (Nat.le_of_not_lt h7), hmin]
  · have hleast : leastRx.rxMax = 7 := rfl
    have hcount : ¬(u.rxWcnt ≠ 1 ∧ min u.rxLen 7 < leastRx.rxMax) := by omega
    rw [byteDone_counted hstore, byteDone_counted (u := trim u) hcount]
    rfl

theorem trim_suBit {c : Config} (hc : 7 ≤ c.rxMax) (b : Bool) (u : SU) : trim (suBit c b u) = suBit leastRx b (trim u) := by
  cases hs : u.rxState with
  | idle => rw [suBit_idle hs, suBit_idle (u := trim u) hs]
  | collecting =>
    by_cases h8 : u.rxBitcnt + 1 = 8
    · rw [suBit_last hs h8, suBit_last (u := trim u) hs h8]
      exact congrArg emptyShift (trim_byteDone hc (shiftIn u.rxShift b) u)
    · rw [suBit_within hs h8, suBit_within (u := trim u) hs h8]
      rfl

theorem trim_csRise (c : Config) (u : SU) : trim (suEvent c u .csRise) = suEvent leastRx (trim u) .csRise := by
  have hbuf : (trim u).rxBuf.take 7 = u.rxBuf.take 7 := by simp [trim]
  have hlen : 7 ≤ (trim u).rxLen ↔ 7 ≤ u.rxLen := by simp [trim]
  have hvalid : frameValid (trim u) = frameValid u := frameValid_congr hlen hbuf
  cases hs : u.rxState with
  | idle =>
    rw [(idleReceiverIgnoresStrayEvents c true u hs).2, (idleReceiverIgnoresStrayEvents leastRx true (trim u) hs).2]
    rfl
  | collecting =>
    cases hv : frameValid u with
    | false =>
      rw [suEvent_csRise_invalid hs hv, suEvent_csRise_invalid (u := trim u) hs (hvalid.trans hv)]
      rfl
    | true =>
      rw [suEvent_csRise_valid hs hv, suEvent_csRise_valid (u := trim u) hs (hvalid.trans hv), collectedTriple_congr hbuf]
      rfl

/-- A trimmed receiver with the least buffer follows every other step by step. -/
theorem trim_suEvent {c : Config} (hc : 7 ≤ c.rxMax) (e : LinkEvent) (u : SU) : trim (suEvent c u e) = suEvent leastRx (trim u) e := by
  cases e with
  | csFall => rfl
  | bit b => exact trim_suBit hc b (suCycleStart u)
  | csRise => exact trim_csRise c u

theorem dispatches_trim {c : Config} (hc : 7 ≤ c.rxMax) (es : List LinkEvent) (u : SU) :
    dispatches c es u = dispatches leastRx es (trim u) := by
  induction es generalizing u with
  | nil => rfl
  | cons e es ih =>
    calc dispatches c (e :: es) u = dispatched (trim (suEvent c u e)) ++ dispatches c es (suEvent c u e) := rfl
      _ = dispatches leastRx (e :: es) (trim u) := by rw [ih, trim_suEvent hc]; rfl

theorem trim_reset {c : Config} (hc : 7 ≤ c.rxMax) : trim (SU.reset c) = SU.reset leastRx := by
  simp only [trim, SU.reset, List.take_replicate, min_eq_left hc]
  rfl

/-- Settles O22: both receivers dispatch what the one with the least buffer does. -/
theorem rxMaxIsUnobservable : Obligations.RxMaxIsUnobservable := by
  intro c c' es hc hc'
  rw [dispatches_trim hc, dispatches_trim hc', trim_reset hc, trim_reset hc']

end Sys2Proof.Machine
end

section
/-! The host bus's own statements (45_host_bus.md): the reads and their values (R310, R317, R319), the BusError rows (R318), the writes
that are ignored (R313, R316, R317) and the reserved commands (R314). -/

namespace Sys2Proof.Machine

/-! ## Reads -/

/-- R43: TX_BUSY as a digit of STATUS. -/
theorem txBusy_toNat (m : MU) : (txBusy m).toNat = if m.txState = .idle then 0 else 1 := by
  by_cases h : m.txState = .idle <;> simp [txBusy, h]

/-- R319 as a number: an offset by its value, and `idx` as it is, because it fits its register. -/
theorem readVal_toNat {m : MU} (h : m.idx ≤ 65535) (a : Offset) :
    (readVal m a).toNat =
      if a.toNat = 0x04 then (statusWord m).toNat
      else if a.toNat = 0x08 then m.idx
      else if a.toNat = 0x0C then m.resPeak.toNat
      else if a.toNat = 0x10 then m.resRms.toNat
      else if a.toNat = 0x14 then m.resFreq.toNat
      else 0 := by
  have hidx : (BitVec.ofNat 32 (m.idx % 65536)).toNat = m.idx := by rw [BitVec.toNat_ofNat]; omega
  have hresult : ∀ v : Half, (v.setWidth 32).toNat = v.toNat := fun v => BitVec.toNat_setWidth_of_le (by decide)
  simp only [readVal, ← BitVec.toNat_inj, apply_ite BitVec.toNat, hidx, hresult]
  rfl

/-- Settles O8: every aligned read is READVAL of its offset, and STATUS is laid out as R43 says. -/
theorem alignedReadAnswersRegisterValue : Obligations.AlignedReadAnswersRegisterValue := by
  intro t s hw hz ha hidx
  refine ⟨readVal s.mu (busAddr t), exec_aligned_read s t hw hz ha, ?_⟩
  rw [readVal_toNat hidx, statusWord_toNat, txBusy_toNat]

/-- R46: the unmapped offsets read 0. -/
theorem readVal_unmappedLo (m : MU) (lo : BitVec 1) : readVal m (unmappedLo lo) = 0#32 := by
  obtain ⟨_, _, _, _, _, h04, h08, h0C, h10, h14⟩ := unmappedLo_facts lo
  simp only [readVal, h04, h08, h0C, h10, h14, if_false]

theorem readVal_unmappedHi (m : MU) (hi : BitVec 3) : readVal m (unmappedHi hi) = 0#32 := by
  obtain ⟨_, _, _, _, _, h04, h08, h0C, h10, h14⟩ := unmappedHi_facts hi
  simp only [readVal, h04, h08, h0C, h10, h14, if_false]

theorem exec_rdUnmappedLo (lo : BitVec 1) (s : State) : exec (.rdUnmappedLo lo) s = .next (readRegister (unmappedLo lo) s) := rfl

theorem exec_rdUnmappedHi (hi : BitVec 3) (s : State) : exec (.rdUnmappedHi hi) s = .next (readRegister (unmappedHi hi) s) := rfl

/-- Settles O9: READVAL at each of the six offsets evaluates, and at the unmapped ones it is 0. -/
theorem readRowsComplete : Obligations.ReadRowsComplete := by
  intro lo hi s
  refine ⟨rfl, rfl, rfl, rfl, rfl, rfl, ?_, ?_⟩
  · rw [exec_rdUnmappedLo, readRegister, readVal_unmappedLo]; rfl
  · rw [exec_rdUnmappedHi, readRegister, readVal_unmappedHi]; rfl

/-! ## BusError -/

/-- Settles O7: all five arms are the one BusError response. -/
theorem busErrorRowsComplete : Obligations.BusErrorRowsComplete := fun _ _ _ _ => ⟨rfl, rfl, rfl, rfl, rfl⟩

/-! ## Writes that are ignored, and reserved commands -/

/-- Settles O14: the seven arms are a write's response alone, and each word is its instruction's encoding. -/
theorem nopAndIgnoredWritesChangeNothing : Obligations.NopAndIgnoredWritesChangeNothing := fun hi d lo hs _ =>
  ⟨none, rfl, rfl, rfl, rfl, rfl, rfl, rfl,
    decodeOfEncodeIsIdentity (.nop hi) rfl, decodeOfEncodeIsIdentity (.wrRoIndex d) rfl, decodeOfEncodeIsIdentity (.wrRoPeak d) rfl,
    decodeOfEncodeIsIdentity (.wrRoRms d) rfl, decodeOfEncodeIsIdentity (.wrRoFreq d) rfl,
    decodeOfEncodeIsIdentity (.wrUnmappedLo lo d) rfl, decodeOfEncodeIsIdentity (.wrUnmappedHi hs d) rfl⟩

/-- CMD_RESERVED is CMD_ERR's setting and a write's response. -/
theorem exec_cmdReserved (hi : BitVec 24) (code : Byte) (s : State) :
    exec (.cmdReserved hi code) s = .next (respondWrite (s.onMu setCmdErr)) := rfl

/-- Settles O15: the word encodes the reserved command, and setting CMD_ERR is all it does. -/
theorem reservedCommandSetsCmdErr : Obligations.ReservedCommandSetsCmdErr := by
  intro hi code s hcode
  have hwf : (Instr.cmdReserved hi code).wf = true := decide_eq_true hcode
  exact ⟨decodeOfEncodeIsIdentity (.cmdReserved hi code) hwf, none, exec_cmdReserved hi code s⟩

end Sys2Proof.Machine
end

section
/-! The statements on exceptions (60_exceptions.md): the two causes of BusError (R318, R332), the totality of a step (R330, R346), and
the sticky bits (R315, R333). -/

namespace Sys2Proof.Machine

/-! ## BusError -/

/-- R332: the size is examined first, so any wrong size is the cause. -/
theorem busErrCause_eq_size_iff {t : BusWord} : busErrCause t = some .size ↔ busSize t ≠ 2#2 := by
  unfold busErrCause
  split_ifs with hz ha <;> simp [hz]

theorem busErrCause_eq_align_iff {t : BusWord} :
    busErrCause t = some .align ↔ busSize t = 2#2 ∧ (busAddr t).extractLsb' 0 2 ≠ 0#2 := by
  unfold busErrCause
  split_ifs with hz ha
  · simp [hz]
  · simp [not_not.mp hz, ha]
  · simp [not_not.mp ha]

/-- R312, R314: each command, accepted or refused, ends with a write's response. -/
theorem exec_decodeCmd_responds (d : Word) (s : State) : ∃ s1, exec (decodeCmd d) s = .next (respondWrite s1) := by
  unfold decodeCmd
  split_ifs
  all_goals exact ⟨_, rfl⟩

/-- R311: so does each write, at any offset. -/
theorem exec_decodeWrite_responds (a : Offset) (d : Word) (s : State) : ∃ s1, exec (decodeWrite a d) s = .next (respondWrite s1) := by
  unfold decodeWrite
  split_ifs
  · exact exec_decodeCmd_responds d s
  all_goals exact ⟨_, rfl⟩

/-- An access without a cause of BusError answers with err 0: a read with its value, a write without one (R310, R311). -/
theorem exec_performed_responds {t : BusWord} (h : busErrCause t = none) (s : State) :
    ∃ s' d, exec (decodeBus t) s = .next s' ∧ s'.mu.busResp = some { rdata := d, err := false } := by
  obtain ⟨hz, ha⟩ := busErrCause_eq_none_iff.mp h
  cases hw : busW t with
  | false => exact ⟨_, _, exec_aligned_read s t hw hz ha, rfl⟩
  | true =>
    obtain ⟨s1, hexec⟩ := exec_decodeWrite_responds (busAddr t) (busData t) s
    have hdec : decodeBus t = decodeWrite (busAddr t) (busData t) := by rw [decodeBus_performed h, hw]; rfl
    exact ⟨_, _, hdec ▸ hexec, rfl⟩

/-- Settles O6: an access with a cause answers BusError, one without a cause is performed, and the causes are read off the word. -/
theorem busErrorExactlyForItsTwoCauses : Obligations.BusErrorExactlyForItsTwoCauses := by
  refine fun t s => ⟨fun h => ?_, fun h => exec_performed_responds (busErrCause_eq_none_iff.mpr h) s, busErrCause_eq_size_iff,
    busErrCause_eq_align_iff⟩
  have hcause : busErrCause t ≠ none := fun hn => by
    obtain ⟨hz, ha⟩ := busErrCause_eq_none_iff.mp hn
    exact h.elim (· hz) (· ha)
  exact exec_error hcause s

/-! ## Totality -/

theorem step_of_illegal {s : State} (h : s.cfg.legal = false) : step s = .refused .illegalConfig :=
  if_neg (by rw [h]; exact Bool.false_ne_true)

/-- Settles O48: both parts of a turn complete, and the configuration is looked at first. -/
theorem stepIsTotalOnLegalConfigurations : Obligations.StepIsTotalOnLegalConfigurations :=
  fun _ => ⟨step_next_of_legal, step_of_illegal⟩

/-! ## The sticky bits

A set bit stays set from `m` to `m'` when `sticky m ≤ sticky m'`, in the order false ≤ true bit by bit. -/

/-- CMD_ERR, TICK_MISSED and SQ_OVF (R51 to R53). -/
def sticky (m : MU) : Bool × Bool × Bool := (m.cmdErr, m.tickMissed, m.sqOvf)

theorem sticky_le_iff {m m' : MU} :
    sticky m ≤ sticky m' ↔ m.cmdErr ≤ m'.cmdErr ∧ m.tickMissed ≤ m'.tickMissed ∧ m.sqOvf ≤ m'.sqOvf := by
  simp only [sticky, Prod.mk_le_mk]

theorem sticky_adcDone (c : Config) (v : Reading) (m : MU) : sticky (adcDone c v m) = sticky m := by simp [sticky]

theorem sticky_txStep (c : Config) (m : MU) : sticky (txStep c m).1 = sticky m := by simp [sticky]

theorem sticky_le_setCmdErr (m : MU) : sticky m ≤ sticky (setCmdErr m) := sticky_le_iff.mpr ⟨Bool.le_true _, le_rfl, le_rfl⟩

theorem sticky_le_muStart (m : MU) : sticky m ≤ sticky (muStart m) := by
  unfold muStart
  split_ifs
  · exact le_rfl
  · exact sticky_le_setCmdErr m

theorem sticky_le_muProcess (c : Config) (m : MU) : sticky m ≤ sticky (muProcess c m) := by
  unfold muProcess
  split_ifs
  · exact le_rfl
  · exact sticky_le_setCmdErr m

theorem sticky_le_muSend (m : MU) : sticky m ≤ sticky (muSend m).1 := by
  unfold muSend
  split_ifs
  · exact le_rfl
  · exact sticky_le_setCmdErr m

/-- R52: a tick only sets TICK_MISSED. -/
theorem sticky_le_tick (m : MU) : sticky m ≤ sticky (tick m) := by
  unfold tick
  split_ifs
  · exact le_rfl
  · exact sticky_le_iff.mpr ⟨le_rfl, Bool.le_true _, le_rfl⟩
  · exact le_rfl

theorem sticky_le_timerCount (c : Config) (m : MU) : sticky m ≤ sticky (timerCount c m) := by
  unfold timerCount
  split_ifs
  · exact sticky_le_tick { m with tcnt := 0 }
  · exact le_rfl
  · exact le_rfl

/-- R53: PROC_DONE only sets SQ_OVF. -/
theorem sticky_le_procDone (c : Config) (m : MU) : sticky m ≤ sticky (procDone c m) :=
  sticky_le_iff.mpr ⟨le_rfl, le_rfl, by rw [procDone_sqOvf]; exact Bool.left_le_or _ _⟩

theorem sticky_le_procCount (c : Config) (m : MU) : sticky m ≤ sticky (procCount c m) := by
  simp only [procCount]
  split_ifs
  · exact sticky_le_procDone c _
  · exact le_rfl
  · exact le_rfl

/-- Positions (2) to (5) of R33 only set sticky bits. -/
theorem sticky_le_finishMu (c : Config) (m0 : MU) (v : Option Reading) (m : MU) : sticky m ≤ sticky (finishMu c m0 v m).1 := by
  obtain ⟨m2, m4, h2, h4, h5⟩ := finishMu_eq c m0 v m
  have e2 : sticky m2 = sticky m := by
    rcases h2 with rfl | ⟨r, rfl⟩
    · rfl
    · exact sticky_adcDone c _ m
  have e5 : sticky (finishMu c m0 v m).1 = sticky m4 := by
    rcases h5 with ⟨_, e⟩ | ⟨_, e⟩
    · rw [e]
    · rw [e, sticky_txStep]
  rw [e5, ← e2]
  rcases h4 with ⟨_, rfl⟩ | ⟨_, rfl⟩
  · exact sticky_le_timerCount c m2
  · exact (sticky_le_timerCount c m2).trans (sticky_le_procCount c _)

/-- Of the bus accesses only a STATUS write clears sticky bits, and it performs STATUS_W1C (R315). -/
theorem access_sticky {x : BusWord} {s s1 : State} (h : exec (decodeBus x) s = .next s1) :
    sticky s.mu ≤ sticky s1.mu ∨ ∃ d, decodeBus x = .wrStatus d ∧ sticky (statusW1C d s.mu) ≤ sticky s1.mu := by
  rcases exec_decodeBus_cases x s with e | ⟨a, e⟩ | e | ⟨d, hd, e⟩ | ⟨hi, _, e⟩ | ⟨hi, _, e⟩ | ⟨hi, _, e⟩ | ⟨hi, c, _, e⟩
  all_goals (rw [e] at h; cases h)
  · exact .inl le_rfl
  · exact .inl le_rfl
  · exact .inl le_rfl
  · exact .inr ⟨d, hd, le_rfl⟩
  · exact .inl (sticky_le_muStart s.mu)
  · exact .inl (sticky_le_muProcess s.cfg s.mu)
  · exact .inl (sticky_le_muSend s.mu)
  · exact .inl (sticky_le_setCmdErr s.mu)

/-- A step out of MU reset only sets sticky bits, or it has a STATUS write and only sets them after the clear (R33). -/
theorem step_sticky {s t : State} (h : step s = .next t) (hr : ¬ muInReset s) :
    sticky s.mu ≤ sticky t.mu
    ∨ ∃ x d, hostAccesses s x ∧ decodeBus x = .wrStatus d ∧ sticky (statusW1C d s.mu) ≤ sticky t.mu := by
  rcases step_mu h hr with ⟨e, _⟩ | ⟨i, s1, v, hm, hi, hs, e⟩
  · exact .inl (by rw [e])
  have hrest : sticky s1.mu ≤ sticky t.mu := e ▸ sticky_le_finishMu s.cfg _ v s1.mu
  rcases hs with ⟨_, rfl⟩ | ⟨x, hx, hexec⟩
  · exact .inl hrest
  rcases access_sticky hexec with hkeep | ⟨d, hd, hclear⟩
  · exact .inl (hkeep.trans hrest)
  · exact .inr ⟨x, d, ⟨i, hm, hi, hx⟩, hd, hclear.trans hrest⟩

/-- A set bit that ends clear is not below its end. -/
theorem not_le_of_cleared : ∀ {b b' : Bool}, b = true → b' = false → ¬ b ≤ b' := by decide

/-- A set bit that ends clear, with only a write-1-to-clear against it, was written as 1 (R315). -/
theorem written_of_cleared : ∀ {b b' w : Bool}, (b && !w) ≤ b' → b = true → b' = false → w = true := by decide

/-- Settles O52: what a step does to the sticky bits, bit by bit. -/
theorem stickyBitsClearOnlyByHostOrReset : Obligations.StickyBitsClearOnlyByHostOrReset := by
  intro s t h hr
  rcases step_sticky h hr with hkeep | ⟨x, d, hx, hd, hclear⟩
  · obtain ⟨hcmd, htick, hovf⟩ := sticky_le_iff.mp hkeep
    exact ⟨fun h1 h0 => absurd hcmd (not_le_of_cleared h1 h0), fun h1 h0 => absurd htick (not_le_of_cleared h1 h0),
      fun h1 h0 => absurd hovf (not_le_of_cleared h1 h0)⟩
  · obtain ⟨hcmd, htick, hovf⟩ := sticky_le_iff.mp hclear
    exact ⟨fun h1 h0 => ⟨x, d, hx, hd, written_of_cleared hcmd h1 h0⟩, fun h1 h0 => ⟨x, d, hx, hd, written_of_cleared htick h1 h0⟩,
      fun h1 h0 => ⟨x, d, hx, hd, written_of_cleared hovf h1 h0⟩⟩

end Sys2Proof.Machine
end

section
/-! Resets and hazards (70_reset_and_hazards.md): a cycle with the MU in reset (R360, R363, R364), a cycle with the SU in reset while
the link carries whole frames and perhaps one in transmission (R362, R367), and the quiet MU that does nothing until a command is
accepted (R365). -/

namespace Sys2Proof.Machine

/-! ## A cycle in MU reset -/

/-- A turn of the MU alone is its cycle. -/
theorem step_of_mu_turn {s : State} {i : MuIn} {ts : List Turn} (hl : s.cfg.legal = true)
    (ht : s.turns = { mu := some i, su := none } :: ts) : step s = muCycle i { s with turns := ts } := by
  rw [step_of_legal hl, nextTurn_of_turns ht, popTurn_of_turns ht]
  obtain ⟨t, h⟩ := muCycle_next i { s with turns := ts }
  show andThen (muCycle i { s with turns := ts }) (suPart none) = _
  rw [h]
  rfl

/-- An MU cycle in reset is the reset, and what the host makes of its response. -/
theorem muCycle_in_reset {i : MuIn} (hr : i.rst = true) (s : State) :
    muCycle i s = .next (retireHost (nextHostOp s) (muResetCycle (nextHostOp s) (popHost s))) := by
  simp only [muCycle, hr, if_true, andThen_next]
  rfl

/-- A wait in a reset cycle sees the read value 0, which meets it under any mask if and only if it waits for 0 (log 22). -/
theorem retireHost_muResetCycle_wait (a : Offset) (mask v : Word) (s : State) :
    retireHost (.wait a mask v) (muResetCycle (.wait a mask v) s)
      = { muResetCycle (.wait a mask v) s with host := if v = 0#32 then s.host else .wait a mask v :: s.host } := by
  rw [retireHost_wait (x := 0#32) (err := false) rfl]
  simp only [BitVec.zero_and, eq_comm (a := 0#32), muResetCycle_host]

/-- Settles O57: the turn is the MU's reset cycle, and the host's next operation decides the response and the list that is left. -/
theorem muResetCycle_of_turn : Obligations.MuResetCycle := by
  intro s i ts hl ht hr
  rw [step_of_mu_turn hl ht, muCycle_in_reset hr]
  cases hh : s.host with
  | nil => rfl
  | cons op hs =>
    cases op with
    | idle => rfl
    | access x => rfl
    | wait a mask v => exact congrArg _ (retireHost_muResetCycle_wait a mask v _)

/-! ## A cycle in SU reset -/

/-- A turn of the SU alone, in reset, is its reset cycle. -/
theorem step_of_su_reset_turn {s : State} {lost : Nat} {ts : List Turn} (hl : s.cfg.legal = true)
    (ht : s.turns = { mu := none, su := some (.reset lost) } :: ts) : step s = .next (suResetCycle lost { s with turns := ts }) := by
  rw [step_of_legal hl, nextTurn_of_turns ht, popTurn_of_turns ht]
  rfl

theorem linkAfterSuReset_of_idle {s : State} (h : s.mu.txState = .idle) : linkAfterSuReset s = s.link := by
  simp [linkAfterSuReset, txBusy, h]

theorem linkAfterSuReset_of_busy {s : State} (h : s.mu.txState ≠ .idle) : linkAfterSuReset s = withoutOpenFrame s.link := by
  simp [linkAfterSuReset, txBusy, h]

/-- The rest of a frame holds no CS_FALL. -/
theorem csFall_notMem_bits_csRise (bits : List Bool) : LinkEvent.csFall ∉ bits.map LinkEvent.bit ++ [LinkEvent.csRise] := by simp

/-- Settles O58: the MU's transmitter decides what is off the wire, and a receiver that is idle when the rest of the lost frame reaches
it ignores that rest (R287). -/
theorem suResetCycle_of_turn : Obligations.SuResetCycle := by
  intro s ts lost hl ht
  refine ⟨(linkAfterSuReset s).drop lost, step_of_su_reset_turn hl ht, fun hidle => ?_, fun hbusy => ?_⟩
  · rw [linkAfterSuReset_of_idle hidle]
  rw [linkAfterSuReset_of_busy hbusy]
  refine ⟨fun l0 bits e => ?_, fun l0 l1 e h1 => ?_, fun h => ?_, fun bits h => ?_, fun l0 l1 bits e h1 => ?_⟩
  · rw [e, withoutOpenFrame_open]
  · rw [e, withoutOpenFrame_closed l0 h1]
  · rw [withoutOpenFrame_of_no_fall h]
  · exact dispatches_idle (List.not_mem_append h (csFall_notMem_bits_csRise bits)) rfl
  · rw [e, List.append_assoc, List.cons_append,
      dispatches_after_csRise _ _ (List.not_mem_append h1 (csFall_notMem_bits_csRise bits)), dispatches_after_csRise _ _ h1]

/-! ## The quiet MU -/

/-- The MU at reset is quiet (R365). -/
theorem quiet_reset (c : Config) : Quiet (MU.reset c) := ⟨rfl, rfl, rfl, rfl, rfl⟩

/-- Two MUs differ at most in the outputs `adc_start` and bus response, and in the sticky bits. -/
def SameApartFromOutputs (m m' : MU) : Prop :=
  m' = { m with adcStart := m'.adcStart, busResp := m'.busResp, cmdErr := m'.cmdErr, tickMissed := m'.tickMissed, sqOvf := m'.sqOvf }

theorem Quiet.of_sameApartFromOutputs {m m' : MU} (hq : Quiet m) (h : SameApartFromOutputs m m') : Quiet m' := by
  rw [h]
  exact ⟨hq.noTick, hq.noConv, hq.noPending, hq.noProc, hq.noTx⟩

/-- From `s` to `t` nothing happens in the MU beside its outputs and sticky bits: no conversion is drawn, and no event is on the link. -/
structure OnlyOutputsChange (s t : State) : Prop where
  mu : SameApartFromOutputs s.mu t.mu
  adcDraws : t.adcDraws = s.adcDraws
  drawCnt : t.drawCnt = s.drawCnt
  link : t.link = s.link

/-- A bus access that is no accepted command changes only the response and the sticky bits: a refused command only sets CMD_ERR (R141,
R200, R250). -/
theorem access_without_command {x : BusWord} {s s1 : State} (h : exec (decodeBus x) s = .next s1)
    (hc : ¬ commandAccepted s.mu (decodeBus x)) :
    OnlyOutputsChange s s1 ∧ s1.mu.adcStart = s.mu.adcStart := by
  rcases exec_decodeBus_cases x s with e | ⟨a, e⟩ | e | ⟨d, _, e⟩ | ⟨hi, hd, e⟩ | ⟨hi, hd, e⟩ | ⟨hi, hd, e⟩ | ⟨hi, c, _, e⟩
  all_goals (rw [e] at h; cases h)
  · exact ⟨⟨rfl, rfl, rfl, rfl⟩, rfl⟩
  · exact ⟨⟨rfl, rfl, rfl, rfl⟩, rfl⟩
  · exact ⟨⟨rfl, rfl, rfl, rfl⟩, rfl⟩
  · exact ⟨⟨rfl, rfl, rfl, rfl⟩, rfl⟩
  · rw [State.onMu, muStart_refused fun hacc => hc ⟨hi, .inl ⟨hd, hacc⟩⟩]
    exact ⟨⟨rfl, rfl, rfl, rfl⟩, rfl⟩
  · rw [State.onMu, muProcess_refused fun hacc => hc ⟨hi, .inr (.inl ⟨hd, hacc⟩)⟩]
    exact ⟨⟨rfl, rfl, rfl, rfl⟩, rfl⟩
  · rw [sendFrame, muSend_refused fun hidle => hc ⟨hi, .inr (.inr ⟨hd, hidle⟩)⟩]
    exact ⟨⟨rfl, rfl, rfl, List.append_nil _⟩, rfl⟩
  · exact ⟨⟨rfl, rfl, rfl, rfl⟩, rfl⟩

/-- Position (2) of R33 without a pending conversion: the converter counts, and an answer or a stray pulse is ignored (R148). -/
theorem adcPhase_of_not_pending {stray : Option Reading} {s : State} (h : s.mu.adcPending = false) :
    adcPhase stray s = { s with adc := (converterCycle s.adc).2 } := by
  unfold adcPhase
  dsimp only
  split
  · rfl
  · simp only [State.onMu, adcDone_of_not_pending h]

/-- Positions (2) to (5) of R33 of a quiet MU: only the converter counts. -/
theorem finishMuCycle_of_quiet {i : MuIn} {m0 : MU} {s : State} (h0 : Quiet m0) (h : Quiet s.mu) (hs : s.mu.adcStart = false) :
    finishMuCycle i m0 s = { s with adc := (converterCycle s.adc).2 } := by
  have hbusy : txBusy m0 = false := by rw [txBusy, h0.noTx]; rfl
  have htimer : timerCount s.cfg s.mu = s.mu := timerCount_stopped h.noTick
  rw [finishMuCycle, adcPhase_of_not_pending h.noPending, timerPhase_not_started _ (by rw [htimer, hs]), htimer, h0.noProc, hbusy]
  rfl

/-- An MU cycle of a quiet MU, out of reset and with no accepted command, changes only outputs and sticky bits, and `adc_start` is 0
after it. -/
theorem muCycle_of_quiet {i : MuIn} {s t : State} (h : muCycle i s = .next t) (hq : Quiet s.mu) (hr : i.rst = false)
    (hc : ∀ x, opWord (nextHostOp s) = some x → ¬ commandAccepted s.mu (decodeBus x)) :
    OnlyOutputsChange s t ∧ t.mu.adcStart = false := by
  have hq0 : Quiet (beginMuCycle (popHost s)).mu := hq.of_sameApartFromOutputs rfl
  rcases muCycle_cases h with ⟨hr', _⟩ | ⟨_, s1, hs, rfl⟩
  · rw [hr] at hr'; cases hr'
  have haccess : OnlyOutputsChange (beginMuCycle (popHost s)) s1 ∧ s1.mu.adcStart = false := by
    rcases hs with ⟨_, rfl⟩ | ⟨x, hx, hexec⟩
    · exact ⟨⟨rfl, rfl, rfl, rfl⟩, rfl⟩
    · exact access_without_command hexec (hc x hx)
  obtain ⟨⟨hsame, hdraws, hcnt, hlink⟩, hstart⟩ := haccess
  obtain ⟨hst, e⟩ := retireHost_eq (nextHostOp s) (finishMuCycle i (beginMuCycle (popHost s)).mu s1)
  rw [e, finishMuCycle_of_quiet hq0 (hq0.of_sameApartFromOutputs hsame) hstart]
  exact ⟨⟨hsame, hdraws, hcnt, hlink⟩, hstart⟩

/-- While the MU does not transmit, the SU's part of a turn only takes the oldest events from the link. -/
theorem suPart_link_drop {i : Option SuIn} {s t : State} (h : suPart i s = .next t) (hidle : s.mu.txState = .idle) :
    ∃ k, t.link = s.link.drop k := by
  cases i with
  | none => cases h; exact ⟨0, rfl⟩
  | some i =>
    rcases suCycle_cases h with ⟨n, _, rfl⟩ | ⟨_, rfl⟩ | ⟨_, _, rfl⟩ | ⟨e, es, _, hl, rfl⟩ | ⟨e, _, rfl⟩ | ⟨w, _, rfl⟩
    · exact ⟨n, by rw [suResetCycle_link, linkAfterSuReset_of_idle hidle]⟩
    · exact ⟨0, rfl⟩
    · exact ⟨0, rfl⟩
    · exact ⟨1, by rw [hl]; rfl⟩
    · exact ⟨0, rfl⟩
    · exact ⟨0, takeFrame_link w s⟩

/-- Settles O59: the MU's part of the turn, if its clock ticks, is a cycle of a quiet MU, and the SU's part only takes from the link. -/
theorem quietMuStaysQuietWithoutCommand : Obligations.QuietMuStaysQuietWithoutCommand := by
  refine ⟨quiet_reset, fun s t h hq hr hc => ?_⟩
  obtain ⟨_, s1, hmu, hsu⟩ := step_cases h
  have hpart : OnlyOutputsChange (popTurn s) s1 ∧ ((nextTurn s).mu ≠ none → s1.mu.adcStart = false) := by
    cases hm : (nextTurn s).mu with
    | none =>
      rw [hm] at hmu
      cases hmu
      exact ⟨⟨rfl, rfl, rfl, rfl⟩, fun hn => absurd rfl hn⟩
    | some i =>
      rw [hm] at hmu
      have hrst : i.rst = false := Bool.eq_false_iff.mpr fun hi => hr ⟨i, hm, hi⟩
      obtain ⟨hsame, hstart⟩ := muCycle_of_quiet hmu hq hrst fun x hx => hc x ⟨i, hm, hrst, hx⟩
      exact ⟨hsame, fun _ => hstart⟩
  obtain ⟨⟨hsame, hdraws, hcnt, hlink⟩, hstart⟩ := hpart
  have hq1 : Quiet s1.mu := hq.of_sameApartFromOutputs hsame
  obtain ⟨-, htmu, -, -, -, htdraws, htcnt⟩ := suPart_frame hsu
  rw [htmu, htdraws, htcnt, ← show s1.link = s.link from hlink]
  exact ⟨hq1, hsame, hstart, hdraws, hcnt, suPart_link_drop hsu hq1.noTx, fun hn => ((suPart_link hsu).1 hn).2⟩

end Sys2Proof.Machine
end
